-- ==== Sys2Proof/Word.lean ====
section
/-! DEFINITION. The plain data types of rgb2aled CORE: bytes, the six-entry register files, the phases of the state
register, one cycle's inputs, and the guard conditions of the transition table. -/

namespace Sys2Proof

/-- A colour byte, a duty value, a compare value (R7: `PWM_W = 8`). -/
abbrev Byte := BitVec 8

/-- A six-entry file of bytes: the captured-pixel set `cap[0..5]` (R26) and the compare registers `pwm[0..5]` (R31). -/
structure Channels where
  b0 : Byte
  b1 : Byte
  b2 : Byte
  b3 : Byte
  b4 : Byte
  b5 : Byte
deriving DecidableEq, Repr

/-- The four phases of the state register (R21). -/
inductive Phase where
  | waitReset
  | capture
  | relay
  | commit
deriving DecidableEq, Repr

/-- The sub-state field of the state register, two bits; its codes are named in R21 and R78. -/
abbrev SubCode := BitVec 2

/-- The inputs the block samples in one cycle (R16, R36): `rst` is the synchronous reset, active high; `din` is the
upstream line, `true` for 1 (active) and `false` for 0 (idle). -/
structure Pins where
  rst : Bool
  din : Bool
deriving DecidableEq, Repr

/-- What the guards of the transition table read besides the selector (R79, R80): `resync_on` and `reset_seen` (R102),
`s.dcnt = 0`, `s.hcnt = 0`, and how `s.cbit` compares with `CAP_BITS`. -/
structure Guards where
  resyncOn : Bool
  resetSeen : Bool
  dcntZero : Bool
  hcntZero : Bool
  cbitVsCap : Ordering
deriving DecidableEq, Repr

end Sys2Proof
end

