-- ==== Sys2Proof/Config.lean ====
section
/-! DEFINITION. The configuration of the block (00_scope.md §3): the parameters the spec makes arguments of a model,
none of which changes while the block runs, and the free values of the inputs. -/

namespace Sys2Proof

/-- Where the frame-reset condition is acted on (R13). -/
inductive Resync where
  | anyWait
  | waitResetOnly
deriving DecidableEq, Repr

/-- The parameters R6 to R13, with the spec's defaults where it gives one. The timing parameters of R11 have none.
Which values are legal is said in WellFormed.lean. -/
structure Config where
  /-- `PIXELS`, the pixels captured per frame (R6). -/
  pixels : Nat := 2
  /-- `MAX_PIXELS`, the platform pixel ceiling (R8). -/
  maxPixels : Nat := 200
  /-- `RELAY_BUDGET`, loaded into the budget counter when a relay phase starts (R9). -/
  relayBudget : Nat := maxPixels - 2
  /-- `T_SAMPLE`, the sampling offset in cycles (R11). -/
  tSample : Nat
  /-- `T_HOLD`, the relay hold interval in cycles (R11). -/
  tHold : Nat
  /-- `T_RESET`, the idle cycles that form a frame reset (R11). -/
  tReset : Nat
  /-- `F_CLK`; no rule reads it (R12). `none`: not given (log 10). -/
  fClk : Option Nat := none
  /-- `RESYNC` (R13). -/
  resync : Resync := .anyWait
deriving DecidableEq, Repr

/-- The reference configuration `RC` of 95_test_vectors.md §0: values chosen for the spec's tests, not hardware values. -/
def Config.reference : Config := { relayBudget := 2, tSample := 3, tHold := 2, tReset := 8 }

/-- The configuration of `State.reset`: the spec's default for every parameter that has one; for the three OPEN timing
parameters the values of `RC`. DESIGN CHOICE, unsafe (log 1): the spec gives the hardware no value for them. -/
def Config.atReset : Config := { tSample := 3, tHold := 2, tReset := 8 }

/-- The level of `din` in a cycle for which the state holds no stimulus: a free value, any level (R82; log 3). -/
opaque Config.freeDin : Nat → Bool

/-- The level of `rst` in a cycle for which the state holds no stimulus: a free value, any level (R16; log 3). -/
opaque Config.freeRst : Nat → Bool

end Sys2Proof
end

