-- ==== Sys2Proof/Syntax.lean ====
section
/-! DEFINITION. The transition rows of the block, its "instructions": one constructor per row of the transition table
(30_encoding.md R80, spec/opcode_table.json). A row has no operand field: what it reads besides the state is the input
line, which a row either decodes in its selector pattern or reads as data. -/

namespace Sys2Proof

/-- The twenty rows of R80, in the table's order. -/
inductive Instr where
  /-- WR_ACTIVE (R104): line active while waiting for a frame reset. -/
  | wrActive
  /-- WR_COUNT (R105): line idle, reset duration not yet reached. -/
  | wrCount
  /-- WR_EXIT (R106): the frame-reset condition is met, capture begins. -/
  | wrExit
  /-- CWH_IDLE (R121): wait for the line to go active. -/
  | cwhIdle
  /-- CWH_RESYNC (R122): frame reset during capture, the capture restarts. -/
  | cwhResync
  /-- CWH_START (R123): the start of a captured bit window. -/
  | cwhStart
  /-- CD_COUNT (R124): count the sampling offset. -/
  | cdCount
  /-- CD_SAMPLE (R125): sample the line once and shift the bit in. -/
  | cdSample
  /-- CWL_HOLD (R127): the line is still active after the sample. -/
  | cwlHold
  /-- CWL_NEXT (R128): the line is idle and more bits remain. -/
  | cwlNext
  /-- CWL_DONE (R129): the last captured bit is complete, relay begins. -/
  | cwlDone
  /-- RWH_IDLE (R151): wait for the line to go active. -/
  | rwhIdle
  /-- RWH_END (R152): the frame ended before the budget was spent. -/
  | rwhEnd
  /-- RWH_START (R153): the start of a relayed bit window. -/
  | rwhStart
  /-- RH_COUNT (R154): count the hold interval. -/
  | rhCount
  /-- RH_SHORT (R155): idle at the end of the hold, a short pulse. -/
  | rhShort
  /-- RH_LONG (R156): still active at the end of the hold, a long pulse. -/
  | rhLong
  /-- RF_HOLD (R157): the followed pulse is still active. -/
  | rfHold
  /-- RF_FALL (R158): the followed pulse ended. -/
  | rfFall
  /-- COMMIT (R180): copy the captured-pixel set to the compare registers. -/
  | commit
deriving DecidableEq, Repr

end Sys2Proof
end

