-- ==== Sys2Proof/WellFormed.lean ====
section
/-! DEFINITION. Well-formedness: which configurations the model takes (R6, R9, R11) and which codes of the state
register are legal (R21, R81). A transition row carries no operand, so every `Instr` is well formed. -/

namespace Sys2Proof

/-- `PIXELS ∈ {1, 2}` (R6). -/
def Config.pixelsOk (c : Config) : Bool := c.pixels == 1 || c.pixels == 2

/-- `1 ≤ RELAY_BUDGET ≤ 2^BUDGET_W − 1`, with `BUDGET_W = 8` (R9, R10). -/
def Config.relayBudgetOk (c : Config) : Bool := decide (1 ≤ c.relayBudget) && decide (c.relayBudget ≤ 255)

/-- `T_SAMPLE ≥ 1`, `T_HOLD ≥ 1` and `T_RESET ≥ max(T_SAMPLE, T_HOLD) + 2` (R11). -/
def Config.timingOk (c : Config) : Bool :=
  decide (1 ≤ c.tSample) && decide (1 ≤ c.tHold) && decide (max c.tSample c.tHold + 2 ≤ c.tReset)

/-- The configuration satisfies every constraint of 00_scope.md §3. -/
def Config.wf (c : Config) : Bool := c.pixelsOk && c.relayBudgetOk && c.timingOk

/-- The eight legal codes of the state register (R21); the other eight are reserved (R81). -/
def legalCode : Phase → SubCode → Bool
  | .waitReset, sub => sub == 0b00#2
  | .capture, sub => sub != 0b11#2
  | .relay, sub => sub != 0b11#2
  | .commit, sub => sub == 0b00#2

end Sys2Proof
end

