-- ==== Sys2Proof/Decode.lean ====
section
/-! DEFINITION. The selector word, the decoder of transition rows (30_encoding.md §3 and §4), and after it the encoder. -/

namespace Sys2Proof

/-- The two-bit code of a phase (R78). -/
def Phase.code : Phase → BitVec 2
  | .waitReset => 0b00#2
  | .capture => 0b01#2
  | .relay => 0b10#2
  | .commit => 0b11#2

/-- The phase a two-bit code stands for (R78): every code is one. -/
def Phase.ofCode (c : BitVec 2) : Phase :=
  if c = 0b00#2 then .waitReset else if c = 0b01#2 then .capture else if c = 0b10#2 then .relay else .commit

/-- The selector word `S = {phase[1:0], sub[1:0], din}` (R79). -/
def selectorWord (phase : Phase) (sub : SubCode) (din : Bool) : BitVec 5 := phase.code ++ sub ++ BitVec.ofBool din

/-- `S[4:3]`, the phase (R79). -/
def selectorPhase (S : BitVec 5) : Phase := .ofCode (S.extractLsb' 3 2)

/-- `S[2:1]`, the sub-state code (R79). -/
def selectorSub (S : BitVec 5) : SubCode := S.extractLsb' 1 2

/-- `S[0]`, the input line (R79). -/
def selectorDin (S : BitVec 5) : Bool := S.getLsbD 0

/-- What the decoder answers: the row that applies, or why none does. -/
inductive Decoded where
  /-- This row applies. -/
  | row (i : Instr)
  /-- The state code is reserved (R81): "illegal state". -/
  | reservedCode
  /-- The code is legal, but `cbit` lies above `CAP_BITS`, outside its range (R24): neither CWL_NEXT nor CWL_DONE applies. -/
  | cbitOutOfRange
deriving DecidableEq, Repr

/-- The rows of WAIT_RESET (R104 to R106). -/
def decodeWaitReset (din : Bool) (g : Guards) : Instr :=
  if din then .wrActive else if g.resetSeen then .wrExit else .wrCount

/-- The rows of `C_WAIT_HIGH` (R121 to R123). -/
def decodeCaptureWaitHigh (din : Bool) (g : Guards) : Instr :=
  if din then .cwhStart else if g.resyncOn && g.resetSeen then .cwhResync else .cwhIdle

/-- The rows of `C_DELAY` (R124, R125): `din` is not decoded. -/
def decodeCaptureDelay (g : Guards) : Instr := if g.dcntZero then .cdSample else .cdCount

/-- The rows of `C_WAIT_LOW` (R127 to R129). -/
def decodeCaptureWaitLow (din : Bool) (g : Guards) : Decoded :=
  if din then .row .cwlHold
  else match g.cbitVsCap with
    | .lt => .row .cwlNext
    | .eq => .row .cwlDone
    | .gt => .cbitOutOfRange

/-- The rows of `R_WAIT_HIGH` (R151 to R153). -/
def decodeRelayWaitHigh (din : Bool) (g : Guards) : Instr :=
  if din then .rwhStart else if g.resyncOn && g.resetSeen then .rwhEnd else .rwhIdle

/-- The rows of `R_HOLD` (R154 to R156). -/
def decodeRelayHold (din : Bool) (g : Guards) : Instr :=
  if g.hcntZero then (if din then .rhLong else .rhShort) else .rhCount

/-- The rows of `R_FOLLOW` (R157, R158). -/
def decodeRelayFollow (din : Bool) : Instr := if din then .rfHold else .rfFall

/-- The row that applies for a selector word and the guards (R79, R80). Reserved codes are rejected by name (R81). -/
def decode (S : BitVec 5) (g : Guards) : Decoded :=
  let sub := selectorSub S
  let din := selectorDin S
  match selectorPhase S with
  | .waitReset => if sub = 0b00#2 then .row (decodeWaitReset din g) else .reservedCode
  | .capture =>
    if sub = 0b00#2 then .row (decodeCaptureWaitHigh din g)
    else if sub = 0b01#2 then .row (decodeCaptureDelay g)
    else if sub = 0b10#2 then decodeCaptureWaitLow din g
    else .reservedCode
  | .relay =>
    if sub = 0b00#2 then .row (decodeRelayWaitHigh din g)
    else if sub = 0b01#2 then .row (decodeRelayHold din g)
    else if sub = 0b10#2 then .row (decodeRelayFollow din)
    else .reservedCode
  | .commit => if sub = 0b00#2 then .row .commit else .reservedCode

/-- The guards as they stand right after reset, whatever the word: `idle_run` is 0, so `reset_seen` is false (R11, R102);
`dcnt`, `hcnt` and `cbit` hold the values of log 2. The table's words name no guard, so the table's reader needs one (log 7). -/
def guardsAfterReset : Guards :=
  { resyncOn := true, resetSeen := false, dcntZero := true, hcntZero := true, cbitVsCap := .lt }

/-- The row read from a word of spec/opcode_table.json, a 5-bit selector in the low bits: of the rows that share the word,
the one whose guard holds right after reset (log 7). A word with a bit above bit 4 is no selector. -/
def decodeTableWord (_nbits w : Nat) : Option Instr :=
  if w < 32 then
    match decode (BitVec.ofNat 5 w) guardsAfterReset with
    | .row i => some i
    | .reservedCode => none
    | .cbitOutOfRange => none
  else none

/-! ### The encoder: the columns of the transition table R80 -/

/-- The `mask` of the row in spec/opcode_table.json: the selector bits its pattern fixes. -/
def Instr.mask : Instr → BitVec 5
  | .cdCount | .cdSample | .rhCount | .commit => 0b11110#5
  | .wrActive | .wrCount | .wrExit | .cwhIdle | .cwhResync | .cwhStart | .cwlHold | .cwlNext | .cwlDone
  | .rwhIdle | .rwhEnd | .rwhStart | .rhShort | .rhLong | .rfHold | .rfFall => 0b11111#5

/-- The `match` of the row in spec/opcode_table.json: the value of the fixed selector bits. -/
def Instr.pattern : Instr → BitVec 5
  | .wrActive => 0b00001#5
  | .wrCount => 0b00000#5
  | .wrExit => 0b00000#5
  | .cwhIdle => 0b01000#5
  | .cwhResync => 0b01000#5
  | .cwhStart => 0b01001#5
  | .cdCount => 0b01010#5
  | .cdSample => 0b01010#5
  | .cwlHold => 0b01101#5
  | .cwlNext => 0b01100#5
  | .cwlDone => 0b01100#5
  | .rwhIdle => 0b10000#5
  | .rwhEnd => 0b10000#5
  | .rwhStart => 0b10001#5
  | .rhCount => 0b10010#5
  | .rhShort => 0b10010#5
  | .rhLong => 0b10011#5
  | .rfHold => 0b10101#5
  | .rfFall => 0b10100#5
  | .commit => 0b11000#5

/-- The guard column of R80. -/
def Instr.guard : Instr → Guards → Bool
  | .wrCount, g => !g.resetSeen
  | .wrExit, g => g.resetSeen
  | .cwhIdle, g => !(g.resyncOn && g.resetSeen)
  | .cwhResync, g => g.resyncOn && g.resetSeen
  | .cdCount, g => !g.dcntZero
  | .cdSample, g => g.dcntZero
  | .cwlNext, g => g.cbitVsCap == .lt
  | .cwlDone, g => g.cbitVsCap == .eq
  | .rwhIdle, g => !(g.resyncOn && g.resetSeen)
  | .rwhEnd, g => g.resyncOn && g.resetSeen
  | .rhCount, g => !g.hcntZero
  | .rhShort, g => g.hcntZero
  | .rhLong, g => g.hcntZero
  | .wrActive, _ | .cwhStart, _ | .cwlHold, _ | .rwhStart, _ | .rfHold, _ | .rfFall, _ | .commit, _ => true

/-- The selector word of a row, with the given value in the bit its pattern leaves open (`x` in R80), if it leaves one. -/
def encode (i : Instr) (x : Bool) : BitVec 5 :=
  i.pattern ||| (BitVec.setWidth 5 (BitVec.ofBool x) &&& ~~~ i.mask)

end Sys2Proof
end

