-- ==== Sys2Proof/Machine/State.lean ====
section
/-! DEFINITION. The state of the block (10_state.md R20), the reasons a step can stop, and the state after reset. -/

namespace Sys2Proof.Machine

/-- The state vector of R20, with the configuration (R6 to R13) and three fields of the model's own: `resetDone`,
`stim` and `cycle`. The counters are naturals; R20's ranges are an invariant (Safety.lean). -/
structure State where
  /-- The configuration: fixed while the block runs (R32), written by no step (log 1). -/
  cfg : Config
  /-- The model's own: the block has had a reset cycle since power-up (R222, log 4). -/
  resetDone : Bool
  /-- `phase` of the state register (R21). -/
  phase : Phase
  /-- `sub` of the state register (R21): any two-bit code, so that reserved codes can be told (R81). -/
  sub : SubCode
  /-- `idle_run`, the consecutive idle cycles, saturated at `T_RESET` (R22). -/
  idleRun : Nat
  /-- `dcnt`, the capture delay counter (R23). -/
  dcnt : Nat
  /-- `cbit`, the bits sampled so far in this capture (R24). -/
  cbit : Nat
  /-- `shreg`, the byte being assembled (R25). -/
  shreg : Byte
  /-- `cap[0..5]`, the captured-pixel set, in duty space (R26). -/
  cap : Channels
  /-- `hcnt`, the relay hold counter (R27). -/
  hcnt : Nat
  /-- `rbit`, the index of the bit being relayed within its pixel (R28). -/
  rbit : Nat
  /-- `budget`, the relay budget counter, `BUDGET_W = 8` bits (R10, R29). -/
  budget : BitVec 8
  /-- `dout`, the relay output register (R30); `true` is 1, active. -/
  dout : Bool
  /-- `pwm[0..5]`, the PWM compare registers (R31). -/
  pwm : Channels
  /-- The model's own: the inputs of the current cycle (the head) and of the cycles after it, as far as they are given (log 3). -/
  stim : List Pins
  /-- The model's own: the cycles executed so far; the free values of the inputs are read at it (log 3). -/
  cycle : Nat
deriving DecidableEq, Repr

/-- The faults of the model, for its own consistency (R200): the block itself raises none, and no run from reset meets one. -/
inductive Fault where
  /-- Raised by `step` in a reserved state code (R81, "illegal state"). Safe: the model stops where the source says nothing. -/
  | illegalState
  /-- Raised by `step` in `C_WAIT_LOW` with `din = 0` and `cbit > CAP_BITS`, a value outside R24's range, for which no row
  of R80 applies. Safe: the model stops (log 6). -/
  | noRowApplies
deriving DecidableEq, Repr

/-- The reasons for which the model refuses to step. -/
inductive Refusal where
  /-- Raised by `exec` for a row that has no meaning yet. Safe: nothing can be proved of it. -/
  | notModelled (mnemonic : String)
  /-- Raised by `step`: `PIXELS` is neither 1 nor 2 (R6). Safe: the spec refuses the configuration. -/
  | pixelsNotOneOrTwo
  /-- Raised by `step`: `RELAY_BUDGET` is outside 1 … 255 (R9, R10). Safe: the spec refuses the configuration. -/
  | relayBudgetOutOfRange
  /-- Raised by `step`: `T_SAMPLE`, `T_HOLD` or `T_RESET` breaks a constraint of R11. Safe: the spec refuses the configuration. -/
  | timingOutOfRange
  /-- Raised by `step` in a cycle with `rst = 0` before the first reset cycle (R222). Safe: the spec refuses the step. -/
  | notReset
deriving DecidableEq, Repr

/-- The machine right after a reset cycle (R220, R221) under a configuration. The fields that R221 leaves unspecified
(`dcnt`, `cbit`, `shreg`, `cap`, `hcnt`, `rbit`, `budget`) are zero: DESIGN CHOICE, unsafe (log 2). -/
def State.resetWith (c : Config) : State where
  cfg := c
  resetDone := true
  phase := .waitReset
  sub := 0b00#2
  idleRun := 0
  dcnt := 0
  cbit := 0
  shreg := 0x00#8
  cap := ⟨0x00#8, 0x00#8, 0x00#8, 0x00#8, 0x00#8, 0x00#8⟩
  hcnt := 0
  rbit := 0
  budget := 0x00#8
  dout := false
  pwm := ⟨0xFF#8, 0xFF#8, 0xFF#8, 0xFF#8, 0xFF#8, 0xFF#8⟩
  stim := []
  cycle := 0

/-- The machine right after reset, with the spec's default parameters and the timing of log 1. -/
def State.reset : State := .resetWith Config.atReset

end Sys2Proof.Machine
end

