-- ==== Sys2Proof/Machine/Operands.lean ====
section
/-! DEFINITION. Operands: the inputs of the cycle, the six-entry files, and the values the transitions compute
(30_encoding.md R74, R77 and R83). -/

namespace Sys2Proof.Machine

/-- The inputs of the current cycle: the head of the stimulus, or free values once the stimulus is used up (log 3). -/
def State.pins (s : State) : Pins :=
  match s.stim with
  | p :: _ => p
  | [] => { rst := Config.freeRst s.cycle, din := Config.freeDin s.cycle }

/-- `rst` in the current cycle (R36). -/
def State.rst (s : State) : Bool := s.pins.rst

/-- `din` in the current cycle (R15, R36). -/
def State.din (s : State) : Bool := s.pins.din

/-- The six entries of a file, entry 0 first. -/
def channelList (c : Channels) : List Byte := [c.b0, c.b1, c.b2, c.b3, c.b4, c.b5]

/-- `file[k]` (R15); there is no entry above 5, and asking for one answers `none`. -/
def channelGet? (c : Channels) (k : Nat) : Option Byte := (channelList c)[k]?

/-- `file[k] <- v` (R15). There is no entry above 5: such a write, which no run from reset makes, writes nothing (log 6). -/
def channelSet (c : Channels) (k : Nat) (v : Byte) : Channels :=
  match k with
  | 0 => { c with b0 := v }
  | 1 => { c with b1 := v }
  | 2 => { c with b2 := v }
  | 3 => { c with b3 := v }
  | 4 => { c with b4 := v }
  | 5 => { c with b5 := v }
  | _ => c

/-- `CAP_BITS = 24 × PIXELS` (R7, R76). -/
def capBits (c : Config) : Nat := 24 * c.pixels

/-- `CAP_BYTES = 3 × PIXELS` (R7). -/
def capBytes (c : Config) : Nat := 3 * c.pixels

/-- The off sentinel `0xFF`, in duty space (R77, R120), and the compare value after reset (R220). -/
def dutyOff : Byte := 0xFF#8

/-- Byte assembly: `((shreg << 1) | b)[7:0]` (R74). -/
def assembleBit (shreg : Byte) (b : Bool) : Byte := (shreg <<< 1) ||| BitVec.setWidth 8 (BitVec.ofBool b)

/-- The duty value of a wire byte, its complement (R77). -/
def dutyValue (v : Byte) : Byte := ~~~ v

/-- The index of the byte just completed, `(cbit + 1) / 8 − 1` (R83, R126). -/
def byteIndex (cbit : Nat) : Nat := (cbit + 1) / 8 - 1

/-- The load value of `dcnt`, `T_SAMPLE − 1` (R83, R123). -/
def dcntLoad (c : Config) : Nat := c.tSample - 1

/-- The load value of `hcnt`, `T_HOLD − 1` (R83, R153). -/
def hcntLoad (c : Config) : Nat := c.tHold - 1

/-- The load value of `budget`, `zext_BUDGET_W(RELAY_BUDGET)` (R83, R150). -/
def budgetLoad (c : Config) : BitVec 8 := BitVec.ofNat 8 c.relayBudget

/-- The next value of the idle counter (R101). -/
def State.idleRunNext (s : State) : Nat := if s.din then 0 else min (s.idleRun + 1) s.cfg.tReset

end Sys2Proof.Machine
end

