-- ==== Sys2Proof/Machine/Flags.lean ====
section
/-! DEFINITION. The combinational conditions of the block (10_state.md R33, 40_frame_sync.md R102). It has no stored
flags: each is computed from the state and the input of the cycle. -/

namespace Sys2Proof.Machine

/-- `reset_seen = (din = 0) ∧ (s.idle_run + 1 ≥ T_RESET)` (R102). -/
def State.resetSeen (s : State) : Bool := !s.din && decide (s.cfg.tReset ≤ s.idleRun + 1)

/-- `resync_on = (RESYNC = ANY_WAIT)` (R102). -/
def State.resyncOn (s : State) : Bool := s.cfg.resync == .anyWait

/-- `byte_done = ((s.cbit + 1) mod 8 = 0)` (R33). -/
def State.byteDone (s : State) : Bool := (s.cbit + 1) % 8 == 0

/-- `cap_done = (s.cbit = CAP_BITS)` (R33). -/
def State.capDone (s : State) : Bool := s.cbit == capBits s.cfg

/-- `pixel_done = (s.rbit = 23)` (R33). -/
def State.pixelDone (s : State) : Bool := s.rbit == 23

/-- `budget_last = (s.budget = 1)` (R33). -/
def State.budgetLast (s : State) : Bool := s.budget == 1#8

/-- The guard conditions of the cycle (R79, R80). -/
def State.guards (s : State) : Guards where
  resyncOn := s.resyncOn
  resetSeen := s.resetSeen
  dcntZero := s.dcnt == 0
  hcntZero := s.hcnt == 0
  cbitVsCap := if s.capDone then .eq else if s.cbit < capBits s.cfg then .lt else .gt

/-- The selector word of the cycle (R79). -/
def State.selector (s : State) : BitVec 5 := selectorWord s.phase s.sub s.din

end Sys2Proof.Machine
end

