-- ==== Sys2Proof/Machine/Ops.lean ====
section
/-! DEFINITION. The named operations the transition rows are made of: the procedures CAPINIT, BYTESTORE, RELAYINIT and
RDONE, the move of the state register, the end of a cycle, and the reset cycle. The block has no memory (R50) and takes no
exception (R200, R204); the reset cycle is the one event that overrides the rows (R203).

Writes are non-blocking (R15): every operation computes from the state at the start of the cycle. -/

namespace Sys2Proof.Machine

/-- `goto P.S` (R15): writes the state register. -/
def State.goto (s : State) (phase : Phase) (sub : SubCode) : State := { s with phase := phase, sub := sub }

/-- CAPINIT, the start of a capture (R120). -/
def State.capInit (s : State) : State :=
  { s with
    cbit := 0
    shreg := 0x00#8
    cap := if s.cfg.pixels = 1 then { s.cap with b3 := dutyOff, b4 := dutyOff, b5 := dutyOff } else s.cap }

/-- BYTESTORE(k, v), the byte store, which stores the complement (R126). -/
def State.byteStore (s : State) (k : Nat) (v : Byte) : State := { s with cap := channelSet s.cap k (dutyValue v) }

/-- RELAYINIT, the start of a relay phase (R150). -/
def State.relayInit (s : State) : State := { s with rbit := 0, budget := budgetLoad s.cfg }

/-- RDONE, the end of one relayed bit window (R159). -/
def State.relayDone (s : State) : State :=
  if s.pixelDone then
    if s.budgetLast then
      { s with dout := false, rbit := 0, budget := s.budget - 1#8, phase := .commit, sub := 0b00#2 }
    else
      { s with dout := false, rbit := 0, budget := s.budget - 1#8, phase := .relay, sub := 0b00#2 }
  else
    { s with dout := false, rbit := s.rbit + 1, phase := .relay, sub := 0b00#2 }

/-- The clock edge that ends a non-reset cycle: `w` is the start state `s` with the row's writes; beside them the idle
counter takes its next value (R101), and the next input comes up. -/
def State.endCycle (s w : State) : State :=
  { w with idleRun := s.idleRunNext, stim := s.stim.tail, cycle := s.cycle + 1 }

/-- A reset cycle (R220): it takes no row and does not count idle cycles; every field it does not name keeps its value. -/
def State.resetCycle (s : State) : State :=
  { s with
    resetDone := true
    phase := .waitReset
    sub := 0b00#2
    idleRun := 0
    dout := false
    pwm := ⟨dutyOff, dutyOff, dutyOff, dutyOff, dutyOff, dutyOff⟩
    stim := s.stim.tail
    cycle := s.cycle + 1 }

/-- Why the model refuses a configuration, if it does (R6, R9, R11). -/
def configRefusal (c : Config) : Option Refusal :=
  if !c.pixelsOk then some .pixelsNotOneOrTwo
  else if !c.relayBudgetOk then some .relayBudgetOutOfRange
  else if !c.timingOk then some .timingOutOfRange
  else none

/-- The row that applies in the cycle, or why none does (R79). -/
def State.decoded (s : State) : Decoded := decode s.selector s.guards

end Sys2Proof.Machine
end

