-- ==== Sys2Proof/Machine/Capture.lean ====
section
/-! DEFINITION. The rows of phase CAPTURE (41_bit_capture.md). The `if` of each rule's pseudocode is the row's selector
pattern and guard, which the decoder has tested before the row is run (log 5). -/

namespace Sys2Proof.Machine

/-- CWH_IDLE (R121): state unchanged. -/
def execCwhIdle (s : State) : Host.Outcome State Fault Refusal := .next (s.endCycle s)

/-- CWH_RESYNC (R122): CAPINIT; the capture restarts in `C_WAIT_HIGH`. -/
def execCwhResync (s : State) : Host.Outcome State Fault Refusal := .next (s.endCycle (s.capInit.goto .capture 0b00#2))

/-- CWH_START (R123): load the sampling offset and go to `C_DELAY`. -/
def execCwhStart (s : State) : Host.Outcome State Fault Refusal :=
  .next (s.endCycle { s with dcnt := dcntLoad s.cfg, phase := .capture, sub := 0b01#2 })

/-- CD_COUNT (R124): count the sampling offset down. -/
def execCdCount (s : State) : Host.Outcome State Fault Refusal := .next (s.endCycle { s with dcnt := s.dcnt - 1 })

/-- CD_SAMPLE (R125): shift the sampled bit in, store the byte when it is the eighth, and go to `C_WAIT_LOW`. -/
def execCdSample (s : State) : Host.Outcome State Fault Refusal :=
  let v := assembleBit s.shreg s.din
  let stored := if s.byteDone then s.byteStore (byteIndex s.cbit) v else s
  .next (s.endCycle { stored with shreg := v, cbit := s.cbit + 1, phase := .capture, sub := 0b10#2 })

/-- CWL_HOLD (R127): state unchanged. -/
def execCwlHold (s : State) : Host.Outcome State Fault Refusal := .next (s.endCycle s)

/-- CWL_NEXT (R128): on to the next bit window. -/
def execCwlNext (s : State) : Host.Outcome State Fault Refusal := .next (s.endCycle (s.goto .capture 0b00#2))

/-- CWL_DONE (R129): RELAYINIT and on to `RELAY.R_WAIT_HIGH`. -/
def execCwlDone (s : State) : Host.Outcome State Fault Refusal := .next (s.endCycle (s.relayInit.goto .relay 0b00#2))

end Sys2Proof.Machine
end

