-- ==== Sys2Proof/Machine/Commit.lean ====
section
/-! DEFINITION. The row of phase COMMIT (43_commit.md). -/

namespace Sys2Proof.Machine

/-- COMMIT (R180): all six compare registers take the captured-pixel set at one edge, uncomplemented, and the block
returns to WAIT_RESET. -/
def execCommit (s : State) : Host.Outcome State Fault Refusal :=
  .next (s.endCycle { s with pwm := s.cap, phase := .waitReset, sub := 0b00#2 })

end Sys2Proof.Machine
end

