-- ==== Sys2Proof/Machine/FrameSync.lean ====
section
/-! DEFINITION. The rows of phase WAIT_RESET (40_frame_sync.md). The `if` of each rule's pseudocode is the row's selector
pattern and guard, which the decoder has tested before the row is run (log 5). -/

namespace Sys2Proof.Machine

/-- WR_ACTIVE (R104): state unchanged; R101 clears the idle counter. -/
def execWrActive (s : State) : Host.Outcome State Fault Refusal := .next (s.endCycle s)

/-- WR_COUNT (R105): state unchanged; R101 counts the idle cycle. -/
def execWrCount (s : State) : Host.Outcome State Fault Refusal := .next (s.endCycle s)

/-- WR_EXIT (R106): CAPINIT and on to `CAPTURE.C_WAIT_HIGH`. -/
def execWrExit (s : State) : Host.Outcome State Fault Refusal := .next (s.endCycle (s.capInit.goto .capture 0b00#2))

end Sys2Proof.Machine
end

