-- ==== Sys2Proof/Machine/Relay.lean ====
section
/-! DEFINITION. The rows of phase RELAY (42_relay.md). The `if` of each rule's pseudocode is the row's selector pattern and
guard, which the decoder has tested before the row is run (log 5). -/

namespace Sys2Proof.Machine

/-- RWH_IDLE (R151): state unchanged. -/
def execRwhIdle (s : State) : Host.Outcome State Fault Refusal := .next (s.endCycle s)

/-- RWH_END (R152): the frame is committed. -/
def execRwhEnd (s : State) : Host.Outcome State Fault Refusal := .next (s.endCycle (s.goto .commit 0b00#2))

/-- RWH_START (R153): drive the output active, load the hold interval and go to `R_HOLD`. -/
def execRwhStart (s : State) : Host.Outcome State Fault Refusal :=
  .next (s.endCycle { s with dout := true, hcnt := hcntLoad s.cfg, phase := .relay, sub := 0b01#2 })

/-- RH_COUNT (R154): count the hold interval down. -/
def execRhCount (s : State) : Host.Outcome State Fault Refusal := .next (s.endCycle { s with hcnt := s.hcnt - 1 })

/-- RH_SHORT (R155): a short pulse, RDONE. -/
def execRhShort (s : State) : Host.Outcome State Fault Refusal := .next (s.endCycle s.relayDone)

/-- RH_LONG (R156): a long pulse, follow the input. -/
def execRhLong (s : State) : Host.Outcome State Fault Refusal := .next (s.endCycle (s.goto .relay 0b10#2))

/-- RF_HOLD (R157): state unchanged. -/
def execRfHold (s : State) : Host.Outcome State Fault Refusal := .next (s.endCycle s)

/-- RF_FALL (R158): the followed pulse ended, RDONE. -/
def execRfFall (s : State) : Host.Outcome State Fault Refusal := .next (s.endCycle s.relayDone)

end Sys2Proof.Machine
end

