-- ==== Sys2Proof/Machine/Dispatch.lean ====
section
/-! DEFINITION. One cycle of one transition row: one arm per row of the transition table R80. -/

namespace Sys2Proof.Machine

def exec (i : Instr) (s : State) : Host.Outcome State Fault Refusal :=
  match i with
  | .wrActive => Sys2Proof.Machine.execWrActive s
  | .wrCount => Sys2Proof.Machine.execWrCount s
  | .wrExit => Sys2Proof.Machine.execWrExit s
  | .cwhIdle => Sys2Proof.Machine.execCwhIdle s
  | .cwhResync => Sys2Proof.Machine.execCwhResync s
  | .cwhStart => Sys2Proof.Machine.execCwhStart s
  | .cdCount => Sys2Proof.Machine.execCdCount s
  | .cdSample => Sys2Proof.Machine.execCdSample s
  | .cwlHold => Sys2Proof.Machine.execCwlHold s
  | .cwlNext => Sys2Proof.Machine.execCwlNext s
  | .cwlDone => Sys2Proof.Machine.execCwlDone s
  | .rwhIdle => Sys2Proof.Machine.execRwhIdle s
  | .rwhEnd => Sys2Proof.Machine.execRwhEnd s
  | .rwhStart => Sys2Proof.Machine.execRwhStart s
  | .rhCount => Sys2Proof.Machine.execRhCount s
  | .rhShort => Sys2Proof.Machine.execRhShort s
  | .rhLong => Sys2Proof.Machine.execRhLong s
  | .rfHold => Sys2Proof.Machine.execRfHold s
  | .rfFall => Sys2Proof.Machine.execRfFall s
  | .commit => Sys2Proof.Machine.execCommit s

end Sys2Proof.Machine
end

