-- ==== Sys2Proof/Machine/Step.lean ====
section
/-! DEFINITION. One clock cycle of the block (00_scope.md R16), in the order of events of 60_exceptions.md R203, and the
place a row's selector word is taken from. -/

namespace Sys2Proof.Machine

/-- One clock cycle. A configuration outside R6, R9, R11 is refused. Otherwise `rst = 1` overrides everything (R203, R220);
a block that has had no reset cycle is refused (R222); and else the one row that applies runs (R79). -/
def step (s : State) : Host.Outcome State Fault Refusal :=
  match configRefusal s.cfg with
  | some r => .refused r
  | none =>
    if s.rst then .next s.resetCycle
    else if s.resetDone then
      match s.decoded with
      | .row i => exec i s
      | .reservedCode => .fault .illegalState
      | .cbitOutOfRange => .fault .noRowApplies
    else .refused .notReset

/-- `s` with the selector word `w` in place: the state register takes `S[4:3]` and `S[2:1]`, and the input of the current
cycle is `din = S[0]` with `rst = 0` (R79). The rest of the state, which the guards read, is left as it is (log 7). -/
def State.withFetchWord (s : State) (_nbits w : Nat) : State :=
  let S := BitVec.ofNat 5 w
  { s with
    phase := selectorPhase S
    sub := selectorSub S
    stim := { rst := false, din := selectorDin S } :: s.stim.tail }

end Sys2Proof.Machine
end

