-- ==== Sys2Proof/Machine/Stimulus.lean ====
section
/-! DEFINITION. The stimulus notation of 30_encoding.md §6 (R90, R91), the spec's assembler: its statements and the inputs
they expand to. -/

namespace Sys2Proof.Machine

/-- A stimulus timing profile `(h0, l0, h1, l1)`: the high and low cycles of a 0 bit and of a 1 bit (R91). -/
structure Profile where
  h0 : Nat
  l0 : Nat
  h1 : Nat
  l1 : Nat
deriving DecidableEq, Repr

/-- The statements of the notation (R90, R91); `seq` is the separator `;`, `done` the empty sequence. -/
inductive Stim where
  /-- `L n`: n cycles with `din = 0`. -/
  | low (n : Nat)
  /-- `H n`: n cycles with `din = 1`. -/
  | high (n : Nat)
  /-- `RESET`: one cycle with `rst = 1`, `din` driven to 0. -/
  | reset
  /-- `B0`. -/
  | b0
  /-- `B1`. -/
  | b1
  /-- `BYTE v`, most significant bit first. -/
  | byte (v : Byte)
  /-- `PIX c0,c1,c2`. -/
  | pix (c0 c1 c2 : Byte)
  /-- `RST n`, a frame-reset gap when `n ≥ T_RESET + 2` (R230). -/
  | rst (n : Nat)
  /-- `REP k { body }`. -/
  | rep (k : Nat) (body : Stim)
  /-- `first ; second`. -/
  | seq (first second : Stim)
  /-- The empty sequence. -/
  | done
deriving DecidableEq, Repr

/-- `n` cycles with `rst = 0` and the line at `level`. -/
def level (d : Bool) (n : Nat) : List Pins := List.replicate n { rst := false, din := d }

/-- One bit window of a profile (R91): `B0` is `H h0; L l0`, `B1` is `H h1; L l1`. -/
def bitWindow (p : Profile) (b : Bool) : List Pins :=
  if b then level true p.h1 ++ level false p.l1 else level true p.h0 ++ level false p.l0

/-- The bits of a byte in wire order, most significant first (R51, R74). -/
def byteBits (v : Byte) : List Bool :=
  [v.getLsbD 7, v.getLsbD 6, v.getLsbD 5, v.getLsbD 4, v.getLsbD 3, v.getLsbD 2, v.getLsbD 1, v.getLsbD 0]

/-- `BYTE v` (R91). -/
def byteWindows (p : Profile) (v : Byte) : List Pins := (byteBits v).flatMap (bitWindow p)

/-- A statement repeated: `REP k` of a list of inputs. -/
def repeatInputs (k : Nat) (ps : List Pins) : List Pins := (List.replicate k ps).flatten

/-- The inputs a stimulus expands to, one entry a cycle (R90, R91). -/
def expand (p : Profile) : Stim → List Pins
  | .low n => level false n
  | .high n => level true n
  | .reset => [{ rst := true, din := false }]
  | .b0 => bitWindow p false
  | .b1 => bitWindow p true
  | .byte v => byteWindows p v
  | .pix c0 c1 c2 => byteWindows p c0 ++ byteWindows p c1 ++ byteWindows p c2
  | .rst n => level false n
  | .rep k body => repeatInputs k (expand p body)
  | .seq a b => expand p a ++ expand p b
  | .done => []

/-- The well-formed statements: `L n` and `H n` need `n ≥ 1` (R90), and `RST n` expands to `L n` (R91). -/
def stimWf : Stim → Bool
  | .low n | .high n | .rst n => decide (1 ≤ n)
  | .reset | .b0 | .b1 | .byte _ | .pix _ _ _ | .done => true
  | .rep _ body => stimWf body
  | .seq a b => stimWf a && stimWf b

/-- The state with these inputs coming up, in place of those it held (log 3). -/
def State.drive (s : State) (ps : List Pins) : State := { s with stim := ps }

end Sys2Proof.Machine
end

