-- ==== Sys2Proof/Safety.lean ====
section
/-! DEFINITION. The terms the statements use: when the block runs, which row of R80 applies, what can be observed (R17),
the invariants of 10_state.md R20 and R35, runs of several cycles, and the bit windows of a frame (R225, R226, R229). -/

namespace Sys2Proof.Machine

/-- The block takes a row this cycle: legal configuration, a reset behind it, and `rst = 0` (R203, R222). -/
abbrev Running (s : State) : Prop := s.cfg.wf = true ∧ s.resetDone = true ∧ s.rst = false

/-- The state register holds this code (R21). -/
abbrev AtCode (s : State) (phase : Phase) (sub : SubCode) : Prop := s.phase = phase ∧ s.sub = sub

/-- The condition `reset_seen` of R102, said over the input and the idle counter. -/
abbrev ResetSeen (s : State) : Prop := s.din = false ∧ s.cfg.tReset ≤ s.idleRun + 1

/-- `resync_on ∧ reset_seen` (R102, R103). -/
abbrev ResyncNow (s : State) : Prop := s.cfg.resync = .anyWait ∧ ResetSeen s

/-- The selector pattern and the guard of a row, as the table of R80 gives them, said over the state. -/
def RowApplies (i : Instr) (s : State) : Prop :=
  match i with
  | .wrActive => AtCode s .waitReset 0b00#2 ∧ s.din = true
  | .wrCount => AtCode s .waitReset 0b00#2 ∧ s.din = false ∧ ¬ ResetSeen s
  | .wrExit => AtCode s .waitReset 0b00#2 ∧ s.din = false ∧ ResetSeen s
  | .cwhIdle => AtCode s .capture 0b00#2 ∧ s.din = false ∧ ¬ ResyncNow s
  | .cwhResync => AtCode s .capture 0b00#2 ∧ s.din = false ∧ ResyncNow s
  | .cwhStart => AtCode s .capture 0b00#2 ∧ s.din = true
  | .cdCount => AtCode s .capture 0b01#2 ∧ s.dcnt ≠ 0
  | .cdSample => AtCode s .capture 0b01#2 ∧ s.dcnt = 0
  | .cwlHold => AtCode s .capture 0b10#2 ∧ s.din = true
  | .cwlNext => AtCode s .capture 0b10#2 ∧ s.din = false ∧ s.cbit < capBits s.cfg
  | .cwlDone => AtCode s .capture 0b10#2 ∧ s.din = false ∧ s.cbit = capBits s.cfg
  | .rwhIdle => AtCode s .relay 0b00#2 ∧ s.din = false ∧ ¬ ResyncNow s
  | .rwhEnd => AtCode s .relay 0b00#2 ∧ s.din = false ∧ ResyncNow s
  | .rwhStart => AtCode s .relay 0b00#2 ∧ s.din = true
  | .rhCount => AtCode s .relay 0b01#2 ∧ s.hcnt ≠ 0
  | .rhShort => AtCode s .relay 0b01#2 ∧ s.din = false ∧ s.hcnt = 0
  | .rhLong => AtCode s .relay 0b01#2 ∧ s.din = true ∧ s.hcnt = 0
  | .rfHold => AtCode s .relay 0b10#2 ∧ s.din = true
  | .rfFall => AtCode s .relay 0b10#2 ∧ s.din = false
  | .commit => AtCode s .commit 0b00#2

/-- What the environment can observe of a state (R17, R210). -/
structure Outputs where
  dout : Bool
  pwm : Channels
deriving DecidableEq, Repr

/-- The outputs of the block in a state: the registers themselves (R16, R36). -/
def State.outputs (s : State) : Outputs := { dout := s.dout, pwm := s.pwm }

/-- The invariant of R35, (a) to (f), with the constraints on the configuration (R6, R9, R11). -/
structure StateInv (s : State) : Prop where
  config : s.cfg.wf = true
  /-- (a) -/
  legal : legalCode s.phase s.sub = true
  /-- (b) -/
  doutIff : s.dout = true ↔ s.phase = .relay ∧ (s.sub = 0b01#2 ∨ s.sub = 0b10#2)
  /-- (c) -/
  cbitLe : s.phase = .capture → s.cbit ≤ capBits s.cfg
  /-- (c) -/
  cbitFull : s.phase = .capture → s.cbit = capBits s.cfg → s.sub = 0b10#2
  /-- (d) -/
  budgetRange : s.phase = .relay → 1 ≤ s.budget.toNat ∧ s.budget.toNat ≤ s.cfg.relayBudget
  /-- (e) -/
  cbitBelow : s.phase = .capture → (s.sub = 0b00#2 ∨ s.sub = 0b01#2) → s.cbit < capBits s.cfg
  /-- (f) -/
  idleLe : s.idleRun ≤ s.cfg.tReset

/-- The ranges R20 gives the counters that have no fixed width. -/
structure InRange (s : State) : Prop where
  idleRun : s.idleRun ≤ s.cfg.tReset
  dcnt : s.dcnt < s.cfg.tSample
  cbit : s.cbit ≤ capBits s.cfg
  hcnt : s.hcnt < s.cfg.tHold
  rbit : s.rbit ≤ 23

/-- With `PIXELS = 1`, `cap[3..5]` holds the off sentinel from CAPINIT to COMMIT (R76, R130). -/
def SentinelHeld (s : State) : Prop :=
  s.cfg.pixels = 1 → s.phase ≠ .waitReset → s.cap.b3 = 0xFF#8 ∧ s.cap.b4 = 0xFF#8 ∧ s.cap.b5 = 0xFF#8

/-- The bit windows the relay may still put out in this relay phase: `24 × budget − rbit` (R28, R29, R161). -/
def relayBitsLeft (s : State) : Nat := 24 * s.budget.toNat - s.rbit

/-- `n` cycles from `s` end in `t`, none of them in a fault or a refusal (R16, R17). -/
def Runs : Nat → State → State → Prop
  | 0, s, t => s = t
  | n + 1, s, t => ∃ u, step s = .next u ∧ Runs n u t

/-- The inputs of cycles with `rst = 0` and these levels of `din`. -/
def line (ds : List Bool) : List Pins := ds.map fun d => { rst := false, din := d }

/-- The idle cycles at the end of a line, counted on from `r` idle cycles before it (R22). -/
def idleTail (r : Nat) (ds : List Bool) : Nat := ds.foldl (fun n d => if d then 0 else n + 1) r

/-- A bit window: the bit the driver means, and its high and low cycles (R70). -/
structure BitWindow where
  bit : Bool
  high : Nat
  low : Nat
deriving DecidableEq, Repr

/-- The inputs of a bit window. -/
def BitWindow.inputs (w : BitWindow) : List Pins := level true w.high ++ level false w.low

/-- The window respects the capture's limits: pulse width (R225), spacing (R226) and in-frame gap (R229). -/
def BitWindow.capturable (c : Config) (w : BitWindow) : Prop :=
  (if w.bit then c.tSample + 1 ≤ w.high else 1 ≤ w.high ∧ w.high ≤ c.tSample) ∧
    max w.high (c.tSample + 1) + 1 ≤ w.high + w.low ∧ w.low < c.tReset

/-- The bit window a timing profile sends for a bit (R91). -/
def Profile.window (p : Profile) (b : Bool) : BitWindow :=
  if b then { bit := true, high := p.h1, low := p.l1 } else { bit := false, high := p.h0, low := p.l0 }

end Sys2Proof.Machine
end

