-- ==== Sys2Proof/Certificates/Slice0/Obligations.lean ====
section
/-! DEFINITION. The statements for the provers. A statement about a row gives the whole next state, so it says the row's
effect and its frame at once; `stim` and `cycle` are the model's own fields, which every cycle advances (log 3). The
configuration is a field of the state, so every statement holds for every configuration. -/

open Sys2Proof Sys2Proof.Machine

/-! ### Decoding and encoding -/

/-- 30_encoding.md R79: a running block takes the row its decoder answers, and a cycle is that row. -/
def Obligations.StepRunsDecodedRow : Prop :=
  ∀ (s : State) (i : Instr), Running s → s.decoded = .row i → step s = exec i s

/-- Words written out from the patterns of R80 and read back, one for each family. -/
def Obligations.SelectorWordsDecode : Prop :=
  decodeTableWord 8 0b00001 = some .wrActive ∧ decodeTableWord 8 0b01001 = some .cwhStart ∧
    decodeTableWord 8 0b01101 = some .cwlHold ∧ decodeTableWord 8 0b10101 = some .rfHold ∧
    decodeTableWord 8 0b11001 = some .commit ∧ decodeTableWord 8 0b11010 = none

/-- Decode and encode agree: a row's word, with either value in the bit its pattern leaves open, decodes to the row under
every guard assignment that satisfies the row's guard (R79, R80). -/
def Obligations.DecodeOfEncodeIsTheRow : Prop :=
  ∀ (i : Instr) (x : Bool) (g : Guards), i.guard g = true → decode (encode i x) g = .row i

/-- R79: a row applies when `(S & mask) = match` and its guard holds; the decoder answers exactly the rows that apply, and
for every legal code, input and range-respecting guard assignment exactly one row does. -/
def Obligations.ExactlyTheTableRowApplies : Prop :=
  (∀ (S : BitVec 5) (g : Guards) (i : Instr),
      decode S g = .row i ↔ (S &&& i.mask = i.pattern ∧ i.guard g = true)) ∧
    ∀ (p : Phase) (c : SubCode) (d : Bool) (g : Guards), legalCode p c = true → g.cbitVsCap ≠ .gt →
      ∃ i : Instr, (selectorWord p c d &&& i.mask = i.pattern ∧ i.guard g = true) ∧
        ∀ j : Instr, selectorWord p c d &&& j.mask = j.pattern → j.guard g = true → j = i

/-- R81: the reserved selector values are the listed ones; a block in a reserved code faults and takes no step; and no row
enters a reserved code. -/
def Obligations.ReservedCodesFaultAndAreNeverEntered : Prop :=
  (∀ (S : BitVec 5) (g : Guards), decode S g = .reservedCode ↔
      (2 ≤ S.toNat ∧ S.toNat ≤ 7) ∨ (14 ≤ S.toNat ∧ S.toNat ≤ 15) ∨ (22 ≤ S.toNat ∧ S.toNat ≤ 23) ∨
        (26 ≤ S.toNat ∧ S.toNat ≤ 31)) ∧
    (∀ s : State, Running s → legalCode s.phase s.sub = false → step s = .fault .illegalState) ∧
    ∀ s t : State, step s = .next t → legalCode t.phase t.sub = true

/-! ### The rows of WAIT_RESET -/

/-- WR_ACTIVE (R104). -/
def Obligations.WrActiveClearsTheIdleCount : Prop :=
  ∀ s : State, Running s → AtCode s .waitReset 0b00#2 → s.din = true →
    step s = exec .wrActive s ∧
      exec .wrActive s = .next { s with idleRun := 0, stim := s.stim.tail, cycle := s.cycle + 1 }

/-- WR_COUNT (R105). -/
def Obligations.WrCountCountsAnIdleCycle : Prop :=
  ∀ s : State, Running s → AtCode s .waitReset 0b00#2 → s.din = false → s.idleRun + 1 < s.cfg.tReset →
    step s = exec .wrCount s ∧
      exec .wrCount s = .next { s with idleRun := s.idleRun + 1, stim := s.stim.tail, cycle := s.cycle + 1 }

/-- WR_EXIT with CAPINIT (R106, R120). -/
def Obligations.WrExitStartsTheCapture : Prop :=
  ∀ s : State, Running s → AtCode s .waitReset 0b00#2 → s.din = false → s.cfg.tReset ≤ s.idleRun + 1 →
    step s = exec .wrExit s ∧
      exec .wrExit s = .next
        { s with
          phase := .capture
          sub := 0b00#2
          cbit := 0
          shreg := 0x00#8
          cap := if s.cfg.pixels = 1 then ⟨s.cap.b0, s.cap.b1, s.cap.b2, 0xFF#8, 0xFF#8, 0xFF#8⟩ else s.cap
          idleRun := s.cfg.tReset
          stim := s.stim.tail
          cycle := s.cycle + 1 }

/-! ### The rows of CAPTURE -/

/-- CWH_IDLE (R121). -/
def Obligations.CwhIdleWaits : Prop :=
  ∀ s : State, Running s → AtCode s .capture 0b00#2 → s.din = false →
    ¬ (s.cfg.resync = .anyWait ∧ s.cfg.tReset ≤ s.idleRun + 1) →
    step s = exec .cwhIdle s ∧
      exec .cwhIdle s = .next
        { s with idleRun := min (s.idleRun + 1) s.cfg.tReset, stim := s.stim.tail, cycle := s.cycle + 1 }

/-- CWH_RESYNC with CAPINIT (R122, R120). -/
def Obligations.CwhResyncRestartsTheCapture : Prop :=
  ∀ s : State, Running s → AtCode s .capture 0b00#2 → s.din = false →
    s.cfg.resync = .anyWait → s.cfg.tReset ≤ s.idleRun + 1 →
    step s = exec .cwhResync s ∧
      exec .cwhResync s = .next
        { s with
          phase := .capture
          sub := 0b00#2
          cbit := 0
          shreg := 0x00#8
          cap := if s.cfg.pixels = 1 then ⟨s.cap.b0, s.cap.b1, s.cap.b2, 0xFF#8, 0xFF#8, 0xFF#8⟩ else s.cap
          idleRun := s.cfg.tReset
          stim := s.stim.tail
          cycle := s.cycle + 1 }

/-- CWH_START (R123). -/
def Obligations.CwhStartLoadsTheSamplingOffset : Prop :=
  ∀ s : State, Running s → AtCode s .capture 0b00#2 → s.din = true →
    step s = exec .cwhStart s ∧
      exec .cwhStart s = .next
        { s with
          phase := .capture
          sub := 0b01#2
          dcnt := s.cfg.tSample - 1
          idleRun := 0
          stim := s.stim.tail
          cycle := s.cycle + 1 }

/-- CD_COUNT (R124). -/
def Obligations.CdCountCountsTheOffsetDown : Prop :=
  ∀ s : State, Running s → AtCode s .capture 0b01#2 → s.dcnt ≠ 0 →
    step s = exec .cdCount s ∧
      exec .cdCount s = .next
        { s with
          dcnt := s.dcnt - 1
          idleRun := if s.din then 0 else min (s.idleRun + 1) s.cfg.tReset
          stim := s.stim.tail
          cycle := s.cycle + 1 }

/-- CD_SAMPLE with BYTESTORE (R125, R126): the sampled bit is shifted in; in the eighth, the complement of the byte is
stored in the entry just completed, and every other entry keeps its value. -/
def Obligations.CdSampleShiftsTheBitAndStoresTheByte : Prop :=
  ∀ s : State, Running s → AtCode s .capture 0b01#2 → s.dcnt = 0 → s.cbit < capBits s.cfg →
    step s = exec .cdSample s ∧
      ∃ c : Channels,
        exec .cdSample s = .next
          { s with
            phase := .capture
            sub := 0b10#2
            shreg := (s.shreg <<< 1) ||| (if s.din then 1#8 else 0#8)
            cbit := s.cbit + 1
            cap := c
            idleRun := if s.din then 0 else min (s.idleRun + 1) s.cfg.tReset
            stim := s.stim.tail
            cycle := s.cycle + 1 } ∧
        ∀ k : Nat, channelGet? c k =
          if (s.cbit + 1) % 8 = 0 ∧ k = (s.cbit + 1) / 8 - 1 then
            some (~~~ ((s.shreg <<< 1) ||| (if s.din then 1#8 else 0#8)))
          else channelGet? s.cap k

/-- CWL_HOLD (R127). -/
def Obligations.CwlHoldWaits : Prop :=
  ∀ s : State, Running s → AtCode s .capture 0b10#2 → s.din = true →
    step s = exec .cwlHold s ∧
      exec .cwlHold s = .next { s with idleRun := 0, stim := s.stim.tail, cycle := s.cycle + 1 }

/-- CWL_NEXT (R128). -/
def Obligations.CwlNextGoesToTheNextBit : Prop :=
  ∀ s : State, Running s → AtCode s .capture 0b10#2 → s.din = false → s.cbit < 24 * s.cfg.pixels →
    step s = exec .cwlNext s ∧
      exec .cwlNext s = .next
        { s with
          phase := .capture
          sub := 0b00#2
          idleRun := min (s.idleRun + 1) s.cfg.tReset
          stim := s.stim.tail
          cycle := s.cycle + 1 }

/-- CWL_DONE with RELAYINIT (R129, R150); the budget register holds the configured budget itself. -/
def Obligations.CwlDoneStartsTheRelay : Prop :=
  ∀ s : State, Running s → AtCode s .capture 0b10#2 → s.din = false → s.cbit = 24 * s.cfg.pixels →
    step s = exec .cwlDone s ∧
      exec .cwlDone s = .next
        { s with
          phase := .relay
          sub := 0b00#2
          rbit := 0
          budget := BitVec.ofNat 8 s.cfg.relayBudget
          idleRun := min (s.idleRun + 1) s.cfg.tReset
          stim := s.stim.tail
          cycle := s.cycle + 1 } ∧
      (BitVec.ofNat 8 s.cfg.relayBudget).toNat = s.cfg.relayBudget

/-! ### The rows of RELAY -/

/-- RWH_IDLE (R151). -/
def Obligations.RwhIdleWaits : Prop :=
  ∀ s : State, Running s → AtCode s .relay 0b00#2 → s.din = false →
    ¬ (s.cfg.resync = .anyWait ∧ s.cfg.tReset ≤ s.idleRun + 1) →
    step s = exec .rwhIdle s ∧
      exec .rwhIdle s = .next
        { s with idleRun := min (s.idleRun + 1) s.cfg.tReset, stim := s.stim.tail, cycle := s.cycle + 1 }

/-- RWH_END (R152). -/
def Obligations.RwhEndGoesToCommit : Prop :=
  ∀ s : State, Running s → AtCode s .relay 0b00#2 → s.din = false →
    s.cfg.resync = .anyWait → s.cfg.tReset ≤ s.idleRun + 1 →
    step s = exec .rwhEnd s ∧
      exec .rwhEnd s = .next
        { s with
          phase := .commit
          sub := 0b00#2
          idleRun := s.cfg.tReset
          stim := s.stim.tail
          cycle := s.cycle + 1 }

/-- RWH_START (R153). -/
def Obligations.RwhStartDrivesTheOutput : Prop :=
  ∀ s : State, Running s → AtCode s .relay 0b00#2 → s.din = true →
    step s = exec .rwhStart s ∧
      exec .rwhStart s = .next
        { s with
          phase := .relay
          sub := 0b01#2
          dout := true
          hcnt := s.cfg.tHold - 1
          idleRun := 0
          stim := s.stim.tail
          cycle := s.cycle + 1 }

/-- RH_COUNT (R154). -/
def Obligations.RhCountCountsTheHoldDown : Prop :=
  ∀ s : State, Running s → AtCode s .relay 0b01#2 → s.hcnt ≠ 0 →
    step s = exec .rhCount s ∧
      exec .rhCount s = .next
        { s with
          hcnt := s.hcnt - 1
          idleRun := if s.din then 0 else min (s.idleRun + 1) s.cfg.tReset
          stim := s.stim.tail
          cycle := s.cycle + 1 }

/-- RH_SHORT with RDONE (R155, R159). -/
def Obligations.RhShortEndsTheBitWindow : Prop :=
  ∀ s : State, Running s → AtCode s .relay 0b01#2 → s.hcnt = 0 → s.din = false →
    step s = exec .rhShort s ∧
      exec .rhShort s = .next
        { s with
          phase := if s.rbit = 23 ∧ s.budget = 1#8 then .commit else .relay
          sub := 0b00#2
          dout := false
          rbit := if s.rbit = 23 then 0 else s.rbit + 1
          budget := if s.rbit = 23 then s.budget - 1#8 else s.budget
          idleRun := min (s.idleRun + 1) s.cfg.tReset
          stim := s.stim.tail
          cycle := s.cycle + 1 }

/-- RH_LONG (R156). -/
def Obligations.RhLongFollowsTheInput : Prop :=
  ∀ s : State, Running s → AtCode s .relay 0b01#2 → s.hcnt = 0 → s.din = true →
    step s = exec .rhLong s ∧
      exec .rhLong s = .next
        { s with phase := .relay, sub := 0b10#2, idleRun := 0, stim := s.stim.tail, cycle := s.cycle + 1 }

/-- RF_HOLD (R157). -/
def Obligations.RfHoldWaits : Prop :=
  ∀ s : State, Running s → AtCode s .relay 0b10#2 → s.din = true →
    step s = exec .rfHold s ∧
      exec .rfHold s = .next { s with idleRun := 0, stim := s.stim.tail, cycle := s.cycle + 1 }

/-- RF_FALL with RDONE (R158, R159). -/
def Obligations.RfFallEndsTheBitWindow : Prop :=
  ∀ s : State, Running s → AtCode s .relay 0b10#2 → s.din = false →
    step s = exec .rfFall s ∧
      exec .rfFall s = .next
        { s with
          phase := if s.rbit = 23 ∧ s.budget = 1#8 then .commit else .relay
          sub := 0b00#2
          dout := false
          rbit := if s.rbit = 23 then 0 else s.rbit + 1
          budget := if s.rbit = 23 then s.budget - 1#8 else s.budget
          idleRun := min (s.idleRun + 1) s.cfg.tReset
          stim := s.stim.tail
          cycle := s.cycle + 1 }

/-! ### The row of COMMIT -/

/-- COMMIT (R180, R53): `pwm[k] <- cap[k]` for all six, and nothing else but the state register. -/
def Obligations.CommitCopiesTheCapturedPixels : Prop :=
  ∀ s : State, Running s → AtCode s .commit 0b00#2 →
    step s = exec .commit s ∧
      exec .commit s = .next
        { s with
          phase := .waitReset
          sub := 0b00#2
          pwm := ⟨s.cap.b0, s.cap.b1, s.cap.b2, s.cap.b3, s.cap.b4, s.cap.b5⟩
          idleRun := if s.din then 0 else min (s.idleRun + 1) s.cfg.tReset
          stim := s.stim.tail
          cycle := s.cycle + 1 }

/-! ### Reset, power-up and configuration -/

/-- R220: a cycle with `rst = 1` writes these fields and no other, whatever the state is: in a reserved code, in the middle of
a frame, or before any reset. -/
def Obligations.ResetCycleWritesTheResetState : Prop :=
  ∀ s : State, s.cfg.wf = true → s.rst = true →
    step s = .next
      { s with
        resetDone := true
        phase := .waitReset
        sub := 0b00#2
        idleRun := 0
        dout := false
        pwm := ⟨0xFF#8, 0xFF#8, 0xFF#8, 0xFF#8, 0xFF#8, 0xFF#8⟩
        stim := s.stim.tail
        cycle := s.cycle + 1 }

/-- R222: a block that has had no reset cycle is refused in a cycle with `rst = 0`. -/
def Obligations.UnresetBlockIsRefused : Prop :=
  ∀ s : State, s.cfg.wf = true → s.resetDone = false → s.rst = false → step s = .refused .notReset

/-- R6, R9, R11: the configurations outside the constraints are refused, and no others for these reasons. DESIGN CHOICE
(log 9), the model's and not the spec's: the order of the three checks, so that a configuration that breaks several
constraints is refused for the first of them, and that they come before `rst` is looked at. -/
def Obligations.IllegalConfigurationsAreRefused : Prop :=
  ∀ s : State,
    (step s = .refused .pixelsNotOneOrTwo ↔ ¬ (s.cfg.pixels = 1 ∨ s.cfg.pixels = 2)) ∧
    (step s = .refused .relayBudgetOutOfRange ↔
      (s.cfg.pixels = 1 ∨ s.cfg.pixels = 2) ∧ ¬ (1 ≤ s.cfg.relayBudget ∧ s.cfg.relayBudget ≤ 2 ^ 8 - 1)) ∧
    (step s = .refused .timingOutOfRange ↔
      (s.cfg.pixels = 1 ∨ s.cfg.pixels = 2) ∧ (1 ≤ s.cfg.relayBudget ∧ s.cfg.relayBudget ≤ 2 ^ 8 - 1) ∧
        ¬ (1 ≤ s.cfg.tSample ∧ 1 ≤ s.cfg.tHold ∧ max s.cfg.tSample s.cfg.tHold + 2 ≤ s.cfg.tReset))

/-- R221: the values the spec gives the fields after reset, under every configuration. The values of the fields it leaves
unspecified are the model's choice (log 2) and no part of this statement. -/
def Obligations.ResetStateIsAsTheSpecSays : Prop :=
  ∀ c : Config,
    AtCode (State.resetWith c) .waitReset 0b00#2 ∧ (State.resetWith c).idleRun = 0 ∧
      (State.resetWith c).dout = false ∧
      (State.resetWith c).pwm = ⟨0xFF#8, 0xFF#8, 0xFF#8, 0xFF#8, 0xFF#8, 0xFF#8⟩

/-- The model's choices at reset: `State.reset` is the reset state under the configuration of log 1, which is legal, and the
values log 2 gives the fields that R221 leaves unspecified lie inside R20's ranges. -/
def Obligations.ChosenResetValuesAreLegal : Prop :=
  State.reset = State.resetWith Config.atReset ∧ Config.atReset.wf = true ∧
    ∀ c : Config, c.wf = true → (State.resetWith c).cfg = c ∧ InRange (State.resetWith c)

/-- R35 and R130 at their start: the invariants hold of the reset state under every legal configuration, and of the state a
reset cycle leaves, whatever state it was met in. -/
def Obligations.InvariantsHoldAfterReset : Prop :=
  (∀ c : Config, c.wf = true → StateInv (State.resetWith c) ∧ SentinelHeld (State.resetWith c)) ∧
    ∀ s t : State, s.rst = true → step s = .next t → StateInv t ∧ SentinelHeld t

/-- R32: no step changes the configuration. -/
def Obligations.ConfigurationNeverChanges : Prop :=
  ∀ s t : State, step s = .next t → t.cfg = s.cfg

/-! ### Invariants -/

/-- R35: every step from a state with the invariant leads to a state with it. -/
def Obligations.EveryStepKeepsTheInvariant : Prop :=
  ∀ s t : State, StateInv s → step s = .next t → StateInv t

/-- R20, the ranges of the counters: every step keeps them. -/
def Obligations.EveryStepKeepsTheCountersInRange : Prop :=
  ∀ s t : State, StateInv s → InRange s → step s = .next t → InRange t

/-- R130: with `PIXELS = 1`, `cap[3..5]` holds the off sentinel from CAPINIT on, and so every COMMIT writes it. -/
def Obligations.SinglePixelModeCommitsTheOffSentinel : Prop :=
  ∀ s t : State, StateInv s → SentinelHeld s → step s = .next t →
    SentinelHeld t ∧
      (s.cfg.pixels = 1 → s.phase = .commit → s.rst = false →
        t.pwm.b3 = 0xFF#8 ∧ t.pwm.b4 = 0xFF#8 ∧ t.pwm.b5 = 0xFF#8)

/-- R82, R200: from every state with the invariant that has been reset, a cycle answers a next state whatever the input;
so no stimulus, of any length, stops a block that has been reset. -/
def Obligations.NoInputStopsTheBlock : Prop :=
  (∀ s : State, StateInv s → s.resetDone = true → ∃ t, step s = .next t ∧ t.resetDone = true) ∧
    ∀ (c : Config) (ps : List Pins) (n : Nat), c.wf = true → ∃ t, Runs n ((State.resetWith c).drive ps) t

/-! ### Rules about every step -/

/-- R101: after every cycle the idle counter holds this value, whatever row runs; so after a run of cycles with `rst = 0` it
is the number of consecutive idle cycles that end with the last one, saturated at `T_RESET`. -/
def Obligations.IdleRunCountsConsecutiveIdleCycles : Prop :=
  (∀ s t : State, step s = .next t →
      t.idleRun = if s.rst then 0 else if s.din then 0 else min (s.idleRun + 1) s.cfg.tReset) ∧
    ∀ (s t : State) (ds : List Bool) (rest : List Pins), s.idleRun ≤ s.cfg.tReset → s.stim = line ds ++ rest →
      Runs ds.length s t → t.idleRun = min (idleTail s.idleRun ds) s.cfg.tReset

/-- R21: the phase order, with no other edge; a COMMIT lasts one cycle. -/
def Obligations.PhasesFollowTheirOrder : Prop :=
  ∀ s t : State, s.rst = false → step s = .next t →
    match s.phase with
    | .waitReset => t.phase = .waitReset ∨ t.phase = .capture
    | .capture => t.phase = .capture ∨ t.phase = .relay
    | .relay => t.phase = .relay ∨ t.phase = .commit
    | .commit => t.phase = .waitReset

/-- R131, its first two points, and R163: RELAY is entered only by a complete capture, COMMIT only from RELAY, and there
only by a reset gap under `ANY_WAIT` or by the last bit of the last budgeted pixel. -/
def Obligations.RelayAndCommitAreEnteredOnlyAsSaid : Prop :=
  ∀ s t : State, s.rst = false → step s = .next t →
    (t.phase = .relay → s.phase ≠ .relay →
      AtCode s .capture 0b10#2 ∧ s.din = false ∧ s.cbit = capBits s.cfg) ∧
    (t.phase = .commit →
      (AtCode s .relay 0b00#2 ∧ s.cfg.resync = .anyWait ∧ s.din = false ∧ s.cfg.tReset ≤ s.idleRun + 1) ∨
        ((AtCode s .relay 0b01#2 ∧ s.hcnt = 0 ∨ AtCode s .relay 0b10#2) ∧ s.din = false ∧ s.rbit = 23 ∧
          s.budget = 1#8))

/-- R57, R181: the compare registers change only at the edge that ends a COMMIT cycle, all six of them at that edge. -/
def Obligations.CompareRegistersChangeTogetherInCommit : Prop :=
  ∀ s t : State, s.rst = false → step s = .next t →
    (s.phase ≠ .commit → t.pwm = s.pwm) ∧ (s.phase = .commit → t.pwm = s.cap)

/-- R162, R30: the output rises only by RWH_START, falls only at the end of a relayed pulse or in a reset cycle, and is
idle in every other phase and in `R_WAIT_HIGH`. -/
def Obligations.OutputRisesOnlyAtARelayedPulse : Prop :=
  (∀ s t : State, step s = .next t → s.dout = false → t.dout = true →
      s.rst = false ∧ AtCode s .relay 0b00#2 ∧ s.din = true) ∧
    (∀ s t : State, step s = .next t → s.dout = true → t.dout = false →
      s.rst = true ∨ (s.din = false ∧ (AtCode s .relay 0b01#2 ∧ s.hcnt = 0 ∨ AtCode s .relay 0b10#2))) ∧
    ∀ s : State, StateInv s → (s.phase ≠ .relay ∨ s.sub = 0b00#2) → s.dout = false

/-- R26, R60: the captured-pixel set changes only by CAPINIT and by the byte store, so RELAY and COMMIT leave it alone. -/
def Obligations.CapturedPixelsChangeOnlyInACapture : Prop :=
  ∀ s t : State, step s = .next t → t.cap ≠ s.cap →
    s.rst = false ∧
      ((s.cfg.pixels = 1 ∧ t.cap = ⟨s.cap.b0, s.cap.b1, s.cap.b2, 0xFF#8, 0xFF#8, 0xFF#8⟩ ∧ AtCode t .capture 0b00#2 ∧
          ((AtCode s .waitReset 0b00#2 ∧ ResetSeen s) ∨ (AtCode s .capture 0b00#2 ∧ ResyncNow s))) ∨
        (AtCode s .capture 0b01#2 ∧ s.dcnt = 0 ∧ (s.cbit + 1) % 8 = 0))

/-- R55: a wait-for-active state is entered, and stayed in, only over an idle cycle, so that a level seen active there is
a rising edge. -/
def Obligations.WaitForActiveFollowsAnIdleCycle : Prop :=
  ∀ s t : State, s.rst = false → step s = .next t →
    (AtCode t .capture 0b00#2 ∨ AtCode t .relay 0b00#2) → s.din = false

/-- R103: a resync row is taken only under `ANY_WAIT`, with the frame-reset condition, in a wait-for-active state; and a
line that goes idle brings every other state of CAPTURE and RELAY to one, or to COMMIT, within the bound the rule gives. -/
def Obligations.ResyncHappensInWaitForActiveStates : Prop :=
  (∀ (s : State) (i : Instr), s.decoded = .row i → (i = .cwhResync ∨ i = .rwhEnd) →
      s.cfg.resync = .anyWait ∧ s.din = false ∧ s.cfg.tReset ≤ s.idleRun + 1 ∧
        (AtCode s .capture 0b00#2 ∨ AtCode s .relay 0b00#2)) ∧
    ∀ (s : State) (rest : List Pins), StateInv s → InRange s → s.resetDone = true → (s.phase = .capture ∨ s.phase = .relay) →
      s.stim = level false (max s.cfg.tSample s.cfg.tHold + 1) ++ rest →
      ∃ n t, n ≤ max s.cfg.tSample s.cfg.tHold + 1 ∧ Runs n s t ∧
        (AtCode t .capture 0b00#2 ∨ AtCode t .relay 0b00#2 ∨ AtCode t .commit 0b00#2)

/-! ### Laws of several cycles -/

/-- R107: from WAIT_RESET the block enters `C_WAIT_HIGH` at the end of the first cycle whose idle run, counted on from before
the entry, is `T_RESET` long, and until then it stays in WAIT_RESET with its outputs as they are. -/
def Obligations.CaptureStartsAtTheFirstResetGap : Prop :=
  ∀ (s : State) (ds : List Bool) (rest : List Pins), s.cfg.wf = true → s.resetDone = true →
    AtCode s .waitReset 0b00#2 → s.stim = line ds ++ rest →
    ((∀ n, 1 ≤ n → n ≤ ds.length → idleTail s.idleRun (ds.take n) < s.cfg.tReset) →
      ∃ t, Runs ds.length s t ∧ AtCode t .waitReset 0b00#2 ∧ t.outputs = s.outputs) ∧
    (ds ≠ [] → (∀ n, 1 ≤ n → n < ds.length → idleTail s.idleRun (ds.take n) < s.cfg.tReset) →
      s.cfg.tReset ≤ idleTail s.idleRun ds →
      ∃ t, Runs ds.length s t ∧ AtCode t .capture 0b00#2 ∧ t.cbit = 0 ∧ t.shreg = 0x00#8 ∧ t.outputs = s.outputs)

/-- R224: after a reset cycle, an input that is never idle for `T_RESET` cycles captures nothing, and the outputs stay
`dout = 0` and `pwm = 0xFF`. -/
def Obligations.NothingIsCapturedBeforeAResetGap : Prop :=
  ∀ (s : State) (d : Bool) (ds : List Bool) (rest : List Pins), s.cfg.wf = true →
    s.stim = { rst := true, din := d } :: (line ds ++ rest) →
    (∀ n, n ≤ ds.length → idleTail 0 (ds.take n) < s.cfg.tReset) →
    ∃ t, Runs (ds.length + 1) s t ∧ AtCode t .waitReset 0b00#2 ∧ t.cap = s.cap ∧
      t.outputs = { dout := false, pwm := ⟨0xFF#8, 0xFF#8, 0xFF#8, 0xFF#8, 0xFF#8, 0xFF#8⟩ }

/-- R71: whatever the line does in between, the captured bit is the level `T_SAMPLE` cycles after the first active cycle. -/
def Obligations.CapturedBitIsTheLevelAtTheSamplingOffset : Prop :=
  ∀ (s : State) (ds : List Bool) (rest : List Pins), s.cfg.wf = true → s.resetDone = true →
    AtCode s .capture 0b00#2 → ds.length = s.cfg.tSample → s.stim = line (true :: ds) ++ rest →
    ∀ b, ds.getLast? = some b →
      ∃ t, Runs (s.cfg.tSample + 1) s t ∧ AtCode t .capture 0b10#2 ∧ t.cbit = s.cbit + 1 ∧
        t.shreg = (s.shreg <<< 1) ||| (if b then 1#8 else 0#8) ∧ t.outputs = s.outputs

/-- R71 and R133: a pulse of `h` active cycles followed by a long enough idle run is captured as 1 exactly when
`h > T_SAMPLE`, and the block is back in a wait-for-active state `max(h, T_SAMPLE + 1) + 1` cycles after its start. -/
def Obligations.PulseIsCapturedByItsWidth : Prop :=
  ∀ (s : State) (h m : Nat) (rest : List Pins), s.cfg.wf = true → s.resetDone = true →
    AtCode s .capture 0b00#2 → s.cbit < capBits s.cfg → 1 ≤ h →
    max h (s.cfg.tSample + 1) + 1 ≤ h + m → s.stim = level true h ++ level false m ++ rest →
    ∃ t, Runs (max h (s.cfg.tSample + 1) + 1) s t ∧ t.cbit = s.cbit + 1 ∧
      t.shreg = (s.shreg <<< 1) ||| (if s.cfg.tSample < h then 1#8 else 0#8) ∧ t.outputs = s.outputs ∧
      (s.cbit + 1 < capBits s.cfg → AtCode t .capture 0b00#2) ∧
      (s.cbit + 1 = capBits s.cfg →
        AtCode t .relay 0b00#2 ∧ t.rbit = 0 ∧ t.budget.toNat = s.cfg.relayBudget)

/-- R74: a bit is shifted in at the low end, and eight bits shifted in, most significant first, make the byte, whatever the
register held before. -/
def Obligations.EightSamplesMakeTheByte : Prop :=
  (∀ (r : Byte) (b : Bool), assembleBit r b = (r <<< 1) ||| (if b then 1#8 else 0#8)) ∧
    ∀ old v : Byte, (byteBits v).foldl assembleBit old = v

/-- R132: when every bit window of a capture respects R225, R226 and R229 and the windows carry these wire bytes, the
capture ends with each `cap[k]` the complement of byte `k`, and the relay phase begins. -/
def Obligations.FrameBytesAreCaptured : Prop :=
  ∀ (s : State) (ws : List BitWindow) (bytes : List Byte) (rest : List Pins), s.cfg.wf = true → s.resetDone = true →
    AtCode s .capture 0b00#2 → s.cbit = 0 → bytes.length = capBytes s.cfg →
    ws.map BitWindow.bit = bytes.flatMap byteBits → (∀ w ∈ ws, w.capturable s.cfg) →
    s.stim = ws.flatMap BitWindow.inputs ++ rest →
    ∃ t, Runs (ws.flatMap BitWindow.inputs).length s t ∧ AtCode t .relay 0b00#2 ∧ t.stim = rest ∧
      t.outputs = s.outputs ∧
      ∀ k, channelGet? t.cap k =
        if k < capBytes s.cfg then (bytes[k]?).map (fun v => ~~~ v) else channelGet? s.cap k

/-- R182: a frame sent by a profile that respects R225, R226 and R229, followed by a frame-reset gap, puts the complement of its
captured pixels on the compare registers, channel order preserved, and leaves the block waiting for bit 0 of the next
frame. Here the frame holds just the captured pixels. -/
def Obligations.CapturedFrameReachesTheCompareRegisters : Prop :=
  ∀ (s : State) (p : Profile) (n : Nat) (a0 a1 a2 b0 b1 b2 : Byte) (rest : List Pins), s.cfg.wf = true →
    s.resetDone = true → s.cfg.resync = .anyWait → AtCode s .capture 0b00#2 → s.cbit = 0 →
    (p.window false).capturable s.cfg → (p.window true).capturable s.cfg → s.cfg.tReset + 2 ≤ n →
    (s.cfg.pixels = 2 →
      s.stim = expand p (.seq (.pix a0 a1 a2) (.seq (.pix b0 b1 b2) (.rst n))) ++ rest →
      ∃ t, Runs (expand p (.seq (.pix a0 a1 a2) (.seq (.pix b0 b1 b2) (.rst n)))).length s t ∧
        AtCode t .capture 0b00#2 ∧ t.cbit = 0 ∧ t.dout = s.dout ∧
        t.pwm = ⟨~~~ a0, ~~~ a1, ~~~ a2, ~~~ b0, ~~~ b1, ~~~ b2⟩) ∧
    (s.cfg.pixels = 1 → SentinelHeld s →
      s.stim = expand p (.seq (.pix a0 a1 a2) (.rst n)) ++ rest →
      ∃ t, Runs (expand p (.seq (.pix a0 a1 a2) (.rst n))).length s t ∧
        AtCode t .capture 0b00#2 ∧ t.cbit = 0 ∧ t.dout = s.dout ∧
        t.pwm = ⟨~~~ a0, ~~~ a1, ~~~ a2, 0xFF#8, 0xFF#8, 0xFF#8⟩)

/-- R131, R182: whatever is relayed, the COMMIT that ends a relay phase writes the pixels captured before it: from any state
of RELAY, if the block stays in RELAY until it is in COMMIT, the next cycle leaves that state's `cap` on `pwm`. -/
def Obligations.CommitWritesThePixelsCapturedBeforeTheRelay : Prop :=
  ∀ (s u t : State) (n : Nat), s.phase = .relay → Runs n s u → u.phase = .commit → u.rst = false →
    (∀ m v, m < n → Runs m s v → v.rst = false ∧ v.phase = .relay) → step u = .next t →
    t.pwm = s.cap ∧ t.phase = .waitReset

/-- R160: a pulse of `h` active cycles met in `R_WAIT_HIGH` comes out one cycle late, `T_HOLD` cycles long when
`h ≤ T_HOLD` and `h` cycles long otherwise, after which the block waits for the next bit or commits. -/
def Obligations.RelayedWaveform : Prop :=
  ∀ (s : State) (h m w : Nat) (rest : List Pins), s.cfg.wf = true → s.resetDone = true →
    AtCode s .relay 0b00#2 → s.dout = false → 1 ≤ h → w = (if h ≤ s.cfg.tHold then s.cfg.tHold else h) →
    w + 1 ≤ h + m → s.stim = level true h ++ level false m ++ rest →
    (∀ i, i ≤ w + 1 → ∃ t, Runs i s t ∧ (t.dout = true ↔ 1 ≤ i ∧ i ≤ w) ∧ t.pwm = s.pwm ∧ t.cap = s.cap) ∧
    ∃ t, Runs (w + 1) s t ∧
      (if s.rbit = 23 ∧ s.budget = 1#8 then AtCode t .commit 0b00#2 else AtCode t .relay 0b00#2)

/-- R161, R29: each bit window that ends takes one from the windows the relay phase may still put out, nothing else does,
and the phase ends with the last one; the budget counter never wraps. -/
def Obligations.RelayBudgetBoundsTheBitWindows : Prop :=
  ∀ s t : State, StateInv s → InRange s → s.phase = .relay → s.rst = false → step s = .next t →
    t.budget.toNat ≤ s.budget.toNat ∧
    (if s.dout = true ∧ t.dout = false then
      relayBitsLeft t + 1 = relayBitsLeft s ∧ (t.phase = .commit ↔ relayBitsLeft t = 0)
    else relayBitsLeft t = relayBitsLeft s)

/-- R230, its last point, with R91's `RST n`: under `ANY_WAIT` a gap of `T_RESET + 2` idle cycles or more, met in any state,
leaves the block waiting for bit 0 of a new capture. -/
def Obligations.ResetGapStartsANewCaptureFromAnyState : Prop :=
  ∀ (s : State) (p : Profile) (n : Nat) (rest : List Pins), StateInv s → InRange s → s.resetDone = true →
    s.cfg.resync = .anyWait → s.cfg.tReset + 2 ≤ n → s.stim = expand p (.rst n) ++ rest →
    ∃ t, Runs n s t ∧ AtCode t .capture 0b00#2 ∧ t.cbit = 0 ∧ t.shreg = 0x00#8 ∧ t.dout = false

/-- R235: a line stuck active holds the block in WAIT_RESET, in `C_WAIT_LOW` or in `R_FOLLOW`, and, under
`WAIT_RESET_ONLY`, a line stuck idle holds it in `C_WAIT_HIGH` or `R_WAIT_HIGH`, for ever and with its outputs as they are. -/
def Obligations.StuckLineHoldsTheState : Prop :=
  ∀ (s : State) (n : Nat) (rest : List Pins), s.cfg.wf = true → s.resetDone = true →
    (s.stim = level true n ++ rest →
      (AtCode s .waitReset 0b00#2 ∨ AtCode s .capture 0b10#2 ∨ AtCode s .relay 0b10#2) →
      ∃ t, Runs n s t ∧ AtCode t s.phase s.sub ∧ t.outputs = s.outputs) ∧
    (s.stim = level false n ++ rest → s.cfg.resync = .waitResetOnly →
      (AtCode s .capture 0b00#2 ∨ AtCode s .relay 0b00#2) →
      ∃ t, Runs n s t ∧ AtCode t s.phase s.sub ∧ t.cbit = s.cbit ∧ t.outputs = s.outputs)

/-- R34: what a reset leaves in the fields whose reset value the spec does not give can never be observed. Two blocks of one
configuration that are in WAIT_RESET with the same outputs, the same idle count and the same inputs to come, and hold
anything in `dcnt`, `cbit`, `shreg`, `cap`, `hcnt`, `rbit` and `budget`, have the same outputs and the same state code for
ever. So the values that log 2 names are not observable. -/
def Obligations.UnspecifiedResetValuesAreNotObservable : Prop :=
  ∀ (s t : State) (n : Nat) (s' : State), t.cfg = s.cfg → t.resetDone = s.resetDone →
    AtCode s .waitReset 0b00#2 → AtCode t .waitReset 0b00#2 → t.idleRun = s.idleRun → t.outputs = s.outputs →
    t.stim = s.stim → t.cycle = s.cycle → Runs n s s' →
    ∃ t', Runs n t t' ∧ t'.outputs = s'.outputs ∧ AtCode t' s'.phase s'.sub

/-! ### The stimulus notation -/

/-- R90 and R91: what each statement of the notation expands to, one input a cycle. DESIGN CHOICE (log 11), the model's and
not the spec's: the clause `expand p (.rep 0 a) = []`, and the case `n = 0` of `low`, `high` and `rst`, which R90 does not
admit and `stimWf` refuses, expand to nothing. -/
def Obligations.StimulusExpandsAsTheNotationSays : Prop :=
  ∀ (p : Profile) (n k : Nat) (v c0 c1 c2 : Byte) (a b : Stim),
    expand p (.low n) = List.replicate n ⟨false, false⟩ ∧ expand p (.high n) = List.replicate n ⟨false, true⟩ ∧
    expand p .reset = [⟨true, false⟩] ∧ expand p (.seq a b) = expand p a ++ expand p b ∧
    expand p .b0 = expand p (.seq (.high p.h0) (.low p.l0)) ∧ expand p .b1 = expand p (.seq (.high p.h1) (.low p.l1)) ∧
    expand p (.byte v) =
      ([7, 6, 5, 4, 3, 2, 1, 0].map fun i => expand p (if v.getLsbD i then .b1 else .b0)).flatten ∧
    expand p (.pix c0 c1 c2) = expand p (.seq (.byte c0) (.seq (.byte c1) (.byte c2))) ∧
    expand p (.rst n) = expand p (.low n) ∧
    expand p (.rep 0 a) = [] ∧ expand p (.rep (k + 1) a) = expand p a ++ expand p (.rep k a)
end

