-- ==== Sys2Proof/Laws/State.lean ====
section
/-! SUPPORT. What each named update of the state does to each field, all true by `rfl`. -/

namespace Sys2Proof.Machine

/-! ### `goto` -/

@[simp] theorem goto_cfg (s : State) (p : Phase) (c : SubCode) : (s.goto p c).cfg = s.cfg := rfl
@[simp] theorem goto_resetDone (s : State) (p : Phase) (c : SubCode) : (s.goto p c).resetDone = s.resetDone := rfl
@[simp] theorem goto_phase (s : State) (p : Phase) (c : SubCode) : (s.goto p c).phase = p := rfl
@[simp] theorem goto_sub (s : State) (p : Phase) (c : SubCode) : (s.goto p c).sub = c := rfl
@[simp] theorem goto_idleRun (s : State) (p : Phase) (c : SubCode) : (s.goto p c).idleRun = s.idleRun := rfl
@[simp] theorem goto_dcnt (s : State) (p : Phase) (c : SubCode) : (s.goto p c).dcnt = s.dcnt := rfl
@[simp] theorem goto_cbit (s : State) (p : Phase) (c : SubCode) : (s.goto p c).cbit = s.cbit := rfl
@[simp] theorem goto_shreg (s : State) (p : Phase) (c : SubCode) : (s.goto p c).shreg = s.shreg := rfl
@[simp] theorem goto_cap (s : State) (p : Phase) (c : SubCode) : (s.goto p c).cap = s.cap := rfl
@[simp] theorem goto_hcnt (s : State) (p : Phase) (c : SubCode) : (s.goto p c).hcnt = s.hcnt := rfl
@[simp] theorem goto_rbit (s : State) (p : Phase) (c : SubCode) : (s.goto p c).rbit = s.rbit := rfl
@[simp] theorem goto_budget (s : State) (p : Phase) (c : SubCode) : (s.goto p c).budget = s.budget := rfl
@[simp] theorem goto_dout (s : State) (p : Phase) (c : SubCode) : (s.goto p c).dout = s.dout := rfl
@[simp] theorem goto_pwm (s : State) (p : Phase) (c : SubCode) : (s.goto p c).pwm = s.pwm := rfl
@[simp] theorem goto_stim (s : State) (p : Phase) (c : SubCode) : (s.goto p c).stim = s.stim := rfl
@[simp] theorem goto_cycle (s : State) (p : Phase) (c : SubCode) : (s.goto p c).cycle = s.cycle := rfl

/-! ### `capInit` -/

@[simp] theorem capInit_cfg (s : State) : (s.capInit).cfg = s.cfg := rfl
@[simp] theorem capInit_resetDone (s : State) : (s.capInit).resetDone = s.resetDone := rfl
@[simp] theorem capInit_phase (s : State) : (s.capInit).phase = s.phase := rfl
@[simp] theorem capInit_sub (s : State) : (s.capInit).sub = s.sub := rfl
@[simp] theorem capInit_idleRun (s : State) : (s.capInit).idleRun = s.idleRun := rfl
@[simp] theorem capInit_dcnt (s : State) : (s.capInit).dcnt = s.dcnt := rfl
@[simp] theorem capInit_cbit (s : State) : (s.capInit).cbit = 0 := rfl
@[simp] theorem capInit_shreg (s : State) : (s.capInit).shreg = 0x00#8 := rfl
@[simp] theorem capInit_cap (s : State) : (s.capInit).cap = if s.cfg.pixels = 1 then { s.cap with b3 := dutyOff, b4 := dutyOff, b5 := dutyOff } else s.cap := rfl
@[simp] theorem capInit_hcnt (s : State) : (s.capInit).hcnt = s.hcnt := rfl
@[simp] theorem capInit_rbit (s : State) : (s.capInit).rbit = s.rbit := rfl
@[simp] theorem capInit_budget (s : State) : (s.capInit).budget = s.budget := rfl
@[simp] theorem capInit_dout (s : State) : (s.capInit).dout = s.dout := rfl
@[simp] theorem capInit_pwm (s : State) : (s.capInit).pwm = s.pwm := rfl
@[simp] theorem capInit_stim (s : State) : (s.capInit).stim = s.stim := rfl
@[simp] theorem capInit_cycle (s : State) : (s.capInit).cycle = s.cycle := rfl

/-! ### `byteStore` -/

@[simp] theorem byteStore_cfg (s : State) (k : Nat) (v : Byte) : (s.byteStore k v).cfg = s.cfg := rfl
@[simp] theorem byteStore_resetDone (s : State) (k : Nat) (v : Byte) : (s.byteStore k v).resetDone = s.resetDone := rfl
@[simp] theorem byteStore_phase (s : State) (k : Nat) (v : Byte) : (s.byteStore k v).phase = s.phase := rfl
@[simp] theorem byteStore_sub (s : State) (k : Nat) (v : Byte) : (s.byteStore k v).sub = s.sub := rfl
@[simp] theorem byteStore_idleRun (s : State) (k : Nat) (v : Byte) : (s.byteStore k v).idleRun = s.idleRun := rfl
@[simp] theorem byteStore_dcnt (s : State) (k : Nat) (v : Byte) : (s.byteStore k v).dcnt = s.dcnt := rfl
@[simp] theorem byteStore_cbit (s : State) (k : Nat) (v : Byte) : (s.byteStore k v).cbit = s.cbit := rfl
@[simp] theorem byteStore_shreg (s : State) (k : Nat) (v : Byte) : (s.byteStore k v).shreg = s.shreg := rfl
@[simp] theorem byteStore_cap (s : State) (k : Nat) (v : Byte) : (s.byteStore k v).cap = channelSet s.cap k (dutyValue v) := rfl
@[simp] theorem byteStore_hcnt (s : State) (k : Nat) (v : Byte) : (s.byteStore k v).hcnt = s.hcnt := rfl
@[simp] theorem byteStore_rbit (s : State) (k : Nat) (v : Byte) : (s.byteStore k v).rbit = s.rbit := rfl
@[simp] theorem byteStore_budget (s : State) (k : Nat) (v : Byte) : (s.byteStore k v).budget = s.budget := rfl
@[simp] theorem byteStore_dout (s : State) (k : Nat) (v : Byte) : (s.byteStore k v).dout = s.dout := rfl
@[simp] theorem byteStore_pwm (s : State) (k : Nat) (v : Byte) : (s.byteStore k v).pwm = s.pwm := rfl
@[simp] theorem byteStore_stim (s : State) (k : Nat) (v : Byte) : (s.byteStore k v).stim = s.stim := rfl
@[simp] theorem byteStore_cycle (s : State) (k : Nat) (v : Byte) : (s.byteStore k v).cycle = s.cycle := rfl

/-! ### `relayInit` -/

@[simp] theorem relayInit_cfg (s : State) : (s.relayInit).cfg = s.cfg := rfl
@[simp] theorem relayInit_resetDone (s : State) : (s.relayInit).resetDone = s.resetDone := rfl
@[simp] theorem relayInit_phase (s : State) : (s.relayInit).phase = s.phase := rfl
@[simp] theorem relayInit_sub (s : State) : (s.relayInit).sub = s.sub := rfl
@[simp] theorem relayInit_idleRun (s : State) : (s.relayInit).idleRun = s.idleRun := rfl
@[simp] theorem relayInit_dcnt (s : State) : (s.relayInit).dcnt = s.dcnt := rfl
@[simp] theorem relayInit_cbit (s : State) : (s.relayInit).cbit = s.cbit := rfl
@[simp] theorem relayInit_shreg (s : State) : (s.relayInit).shreg = s.shreg := rfl
@[simp] theorem relayInit_cap (s : State) : (s.relayInit).cap = s.cap := rfl
@[simp] theorem relayInit_hcnt (s : State) : (s.relayInit).hcnt = s.hcnt := rfl
@[simp] theorem relayInit_rbit (s : State) : (s.relayInit).rbit = 0 := rfl
@[simp] theorem relayInit_budget (s : State) : (s.relayInit).budget = budgetLoad s.cfg := rfl
@[simp] theorem relayInit_dout (s : State) : (s.relayInit).dout = s.dout := rfl
@[simp] theorem relayInit_pwm (s : State) : (s.relayInit).pwm = s.pwm := rfl
@[simp] theorem relayInit_stim (s : State) : (s.relayInit).stim = s.stim := rfl
@[simp] theorem relayInit_cycle (s : State) : (s.relayInit).cycle = s.cycle := rfl

/-! ### `endCycle` -/

@[simp] theorem endCycle_cfg (s w : State) : (s.endCycle w).cfg = w.cfg := rfl
@[simp] theorem endCycle_resetDone (s w : State) : (s.endCycle w).resetDone = w.resetDone := rfl
@[simp] theorem endCycle_phase (s w : State) : (s.endCycle w).phase = w.phase := rfl
@[simp] theorem endCycle_sub (s w : State) : (s.endCycle w).sub = w.sub := rfl
@[simp] theorem endCycle_idleRun (s w : State) : (s.endCycle w).idleRun = s.idleRunNext := rfl
@[simp] theorem endCycle_dcnt (s w : State) : (s.endCycle w).dcnt = w.dcnt := rfl
@[simp] theorem endCycle_cbit (s w : State) : (s.endCycle w).cbit = w.cbit := rfl
@[simp] theorem endCycle_shreg (s w : State) : (s.endCycle w).shreg = w.shreg := rfl
@[simp] theorem endCycle_cap (s w : State) : (s.endCycle w).cap = w.cap := rfl
@[simp] theorem endCycle_hcnt (s w : State) : (s.endCycle w).hcnt = w.hcnt := rfl
@[simp] theorem endCycle_rbit (s w : State) : (s.endCycle w).rbit = w.rbit := rfl
@[simp] theorem endCycle_budget (s w : State) : (s.endCycle w).budget = w.budget := rfl
@[simp] theorem endCycle_dout (s w : State) : (s.endCycle w).dout = w.dout := rfl
@[simp] theorem endCycle_pwm (s w : State) : (s.endCycle w).pwm = w.pwm := rfl
@[simp] theorem endCycle_stim (s w : State) : (s.endCycle w).stim = s.stim.tail := rfl
@[simp] theorem endCycle_cycle (s w : State) : (s.endCycle w).cycle = s.cycle + 1 := rfl

/-! ### `resetCycle` -/

@[simp] theorem resetCycle_cfg (s : State) : (s.resetCycle).cfg = s.cfg := rfl
@[simp] theorem resetCycle_resetDone (s : State) : (s.resetCycle).resetDone = true := rfl
@[simp] theorem resetCycle_phase (s : State) : (s.resetCycle).phase = .waitReset := rfl
@[simp] theorem resetCycle_sub (s : State) : (s.resetCycle).sub = 0b00#2 := rfl
@[simp] theorem resetCycle_idleRun (s : State) : (s.resetCycle).idleRun = 0 := rfl
@[simp] theorem resetCycle_dcnt (s : State) : (s.resetCycle).dcnt = s.dcnt := rfl
@[simp] theorem resetCycle_cbit (s : State) : (s.resetCycle).cbit = s.cbit := rfl
@[simp] theorem resetCycle_shreg (s : State) : (s.resetCycle).shreg = s.shreg := rfl
@[simp] theorem resetCycle_cap (s : State) : (s.resetCycle).cap = s.cap := rfl
@[simp] theorem resetCycle_hcnt (s : State) : (s.resetCycle).hcnt = s.hcnt := rfl
@[simp] theorem resetCycle_rbit (s : State) : (s.resetCycle).rbit = s.rbit := rfl
@[simp] theorem resetCycle_budget (s : State) : (s.resetCycle).budget = s.budget := rfl
@[simp] theorem resetCycle_dout (s : State) : (s.resetCycle).dout = false := rfl
@[simp] theorem resetCycle_pwm (s : State) : (s.resetCycle).pwm = ⟨dutyOff, dutyOff, dutyOff, dutyOff, dutyOff, dutyOff⟩ := rfl
@[simp] theorem resetCycle_stim (s : State) : (s.resetCycle).stim = s.stim.tail := rfl
@[simp] theorem resetCycle_cycle (s : State) : (s.resetCycle).cycle = s.cycle + 1 := rfl

/-! ### `drive` -/

@[simp] theorem drive_cfg (s : State) (ps : List Pins) : (s.drive ps).cfg = s.cfg := rfl
@[simp] theorem drive_resetDone (s : State) (ps : List Pins) : (s.drive ps).resetDone = s.resetDone := rfl
@[simp] theorem drive_phase (s : State) (ps : List Pins) : (s.drive ps).phase = s.phase := rfl
@[simp] theorem drive_sub (s : State) (ps : List Pins) : (s.drive ps).sub = s.sub := rfl
@[simp] theorem drive_idleRun (s : State) (ps : List Pins) : (s.drive ps).idleRun = s.idleRun := rfl
@[simp] theorem drive_dcnt (s : State) (ps : List Pins) : (s.drive ps).dcnt = s.dcnt := rfl
@[simp] theorem drive_cbit (s : State) (ps : List Pins) : (s.drive ps).cbit = s.cbit := rfl
@[simp] theorem drive_shreg (s : State) (ps : List Pins) : (s.drive ps).shreg = s.shreg := rfl
@[simp] theorem drive_cap (s : State) (ps : List Pins) : (s.drive ps).cap = s.cap := rfl
@[simp] theorem drive_hcnt (s : State) (ps : List Pins) : (s.drive ps).hcnt = s.hcnt := rfl
@[simp] theorem drive_rbit (s : State) (ps : List Pins) : (s.drive ps).rbit = s.rbit := rfl
@[simp] theorem drive_budget (s : State) (ps : List Pins) : (s.drive ps).budget = s.budget := rfl
@[simp] theorem drive_dout (s : State) (ps : List Pins) : (s.drive ps).dout = s.dout := rfl
@[simp] theorem drive_pwm (s : State) (ps : List Pins) : (s.drive ps).pwm = s.pwm := rfl
@[simp] theorem drive_stim (s : State) (ps : List Pins) : (s.drive ps).stim = ps := rfl
@[simp] theorem drive_cycle (s : State) (ps : List Pins) : (s.drive ps).cycle = s.cycle := rfl

/-! ### `relayDone` -/

/-- RDONE by its three cases (R159). -/
theorem relayDone_cases (s : State) :
    (s.rbit ≠ 23 ∧ s.relayDone = { s with dout := false, rbit := s.rbit + 1, phase := .relay, sub := 0b00#2 }) ∨
    (s.rbit = 23 ∧ s.budget ≠ 1#8 ∧
      s.relayDone = { s with dout := false, rbit := 0, budget := s.budget - 1#8, phase := .relay, sub := 0b00#2 }) ∨
    (s.rbit = 23 ∧ s.budget = 1#8 ∧
      s.relayDone = { s with dout := false, rbit := 0, budget := 0#8, phase := .commit, sub := 0b00#2 }) := by
  by_cases hr : s.rbit = 23
  · by_cases hb : s.budget = 1#8
    · exact .inr (.inr ⟨hr, hb, by simp [State.relayDone, State.pixelDone, State.budgetLast, hr, hb]⟩)
    · exact .inr (.inl ⟨hr, hb, by simp [State.relayDone, State.pixelDone, State.budgetLast, hr, hb]⟩)
  · exact .inl ⟨hr, by simp [State.relayDone, State.pixelDone, hr]⟩

@[simp] theorem relayDone_cfg (s : State) : s.relayDone.cfg = s.cfg := by
  obtain ⟨-, h⟩ | ⟨-, -, h⟩ | ⟨-, -, h⟩ := relayDone_cases s <;> rw [h]
@[simp] theorem relayDone_resetDone (s : State) : s.relayDone.resetDone = s.resetDone := by
  obtain ⟨-, h⟩ | ⟨-, -, h⟩ | ⟨-, -, h⟩ := relayDone_cases s <;> rw [h]
@[simp] theorem relayDone_idleRun (s : State) : s.relayDone.idleRun = s.idleRun := by
  obtain ⟨-, h⟩ | ⟨-, -, h⟩ | ⟨-, -, h⟩ := relayDone_cases s <;> rw [h]
@[simp] theorem relayDone_dcnt (s : State) : s.relayDone.dcnt = s.dcnt := by
  obtain ⟨-, h⟩ | ⟨-, -, h⟩ | ⟨-, -, h⟩ := relayDone_cases s <;> rw [h]
@[simp] theorem relayDone_cbit (s : State) : s.relayDone.cbit = s.cbit := by
  obtain ⟨-, h⟩ | ⟨-, -, h⟩ | ⟨-, -, h⟩ := relayDone_cases s <;> rw [h]
@[simp] theorem relayDone_shreg (s : State) : s.relayDone.shreg = s.shreg := by
  obtain ⟨-, h⟩ | ⟨-, -, h⟩ | ⟨-, -, h⟩ := relayDone_cases s <;> rw [h]
@[simp] theorem relayDone_cap (s : State) : s.relayDone.cap = s.cap := by
  obtain ⟨-, h⟩ | ⟨-, -, h⟩ | ⟨-, -, h⟩ := relayDone_cases s <;> rw [h]
@[simp] theorem relayDone_hcnt (s : State) : s.relayDone.hcnt = s.hcnt := by
  obtain ⟨-, h⟩ | ⟨-, -, h⟩ | ⟨-, -, h⟩ := relayDone_cases s <;> rw [h]
@[simp] theorem relayDone_pwm (s : State) : s.relayDone.pwm = s.pwm := by
  obtain ⟨-, h⟩ | ⟨-, -, h⟩ | ⟨-, -, h⟩ := relayDone_cases s <;> rw [h]
@[simp] theorem relayDone_stim (s : State) : s.relayDone.stim = s.stim := by
  obtain ⟨-, h⟩ | ⟨-, -, h⟩ | ⟨-, -, h⟩ := relayDone_cases s <;> rw [h]
@[simp] theorem relayDone_cycle (s : State) : s.relayDone.cycle = s.cycle := by
  obtain ⟨-, h⟩ | ⟨-, -, h⟩ | ⟨-, -, h⟩ := relayDone_cases s <;> rw [h]
@[simp] theorem relayDone_dout (s : State) : s.relayDone.dout = false := by
  obtain ⟨-, h⟩ | ⟨-, -, h⟩ | ⟨-, -, h⟩ := relayDone_cases s <;> rw [h]
@[simp] theorem relayDone_sub (s : State) : s.relayDone.sub = 0b00#2 := by
  obtain ⟨-, h⟩ | ⟨-, -, h⟩ | ⟨-, -, h⟩ := relayDone_cases s <;> rw [h]

end Sys2Proof.Machine
end

