-- ==== Sys2Proof/Laws/Ops.lean ====
section
/-! SUPPORT. One law per shared operation: what it can do. -/

namespace Sys2Proof.Machine

/-- The model takes a configuration exactly when it meets R6, R9 and R11. -/
theorem configRefusal_eq_none_iff (c : Config) : configRefusal c = none ↔ c.wf = true := by
  unfold configRefusal Config.wf
  cases c.pixelsOk <;> cases c.relayBudgetOk <;> cases c.timingOk <;> simp

/-- The constraints of R6, R9 and R11, in numbers. -/
theorem config_wf_iff (c : Config) :
    c.wf = true ↔ (c.pixels = 1 ∨ c.pixels = 2) ∧ (1 ≤ c.relayBudget ∧ c.relayBudget ≤ 255) ∧
      1 ≤ c.tSample ∧ 1 ≤ c.tHold ∧ max c.tSample c.tHold + 2 ≤ c.tReset := by
  simp [Config.wf, Config.pixelsOk, Config.relayBudgetOk, Config.timingOk, and_assoc]

/-- The input of a cycle is the head of the stimulus while there is one. -/
theorem pins_of_stim {s : State} {p : Pins} {ps : List Pins} (h : s.stim = p :: ps) : s.pins = p := by
  simp [State.pins, h]

theorem din_of_stim {s : State} {p : Pins} {ps : List Pins} (h : s.stim = p :: ps) : s.din = p.din := by
  simp [State.din, pins_of_stim h]

theorem rst_of_stim {s : State} {p : Pins} {ps : List Pins} (h : s.stim = p :: ps) : s.rst = p.rst := by
  simp [State.rst, pins_of_stim h]

/-- The idle counter after an active cycle (R101). -/
theorem idleRunNext_of_active {s : State} (h : s.din = true) : s.idleRunNext = 0 := by
  simp [State.idleRunNext, h]

/-- The idle counter after an idle cycle (R101). -/
theorem idleRunNext_of_idle {s : State} (h : s.din = false) : s.idleRunNext = min (s.idleRun + 1) s.cfg.tReset := by
  simp [State.idleRunNext, h]

/-- Reading an entry of a file after a write (R15): the value written where there is such an entry, any other entry as before. -/
theorem channelGet?_channelSet (c : Channels) (k j : Nat) (v : Byte) :
    channelGet? (channelSet c k v) j = if j = k ∧ k < 6 then some v else channelGet? c j := by
  obtain hk | ⟨n, rfl⟩ : k < 6 ∨ ∃ n, k = n + 6 := by
    by_cases h : k < 6
    · exact .inl h
    · exact .inr ⟨k - 6, by omega⟩
  · obtain hj | ⟨m, rfl⟩ : j < 6 ∨ ∃ m, j = m + 6 := by
      by_cases h : j < 6
      · exact .inl h
      · exact .inr ⟨j - 6, by omega⟩
    · interval_cases k <;> interval_cases j <;> rfl
    · have : ¬ (m + 6 = k ∧ k < 6) := by omega
      rw [if_neg this]
      interval_cases k <;> rfl
  · rw [if_neg (by omega)]
    rfl

/-- A write where there is no entry writes nothing. -/
theorem channelSet_of_ge (c : Channels) (k : Nat) (v : Byte) (h : 6 ≤ k) : channelSet c k v = c := by
  obtain ⟨n, rfl⟩ : ∃ n, k = n + 6 := ⟨k - 6, by omega⟩
  rfl

end Sys2Proof.Machine
end

