-- ==== Sys2Proof/Laws/Decode.lean ====
section
/-! SUPPORT. The decoder: its fields, and what it answers, said over the state. -/

namespace Sys2Proof

@[simp] theorem selectorPhase_selectorWord (p : Phase) (c : SubCode) (d : Bool) : selectorPhase (selectorWord p c d) = p := by
  cases p <;> cases d <;> revert c <;> decide

@[simp] theorem selectorSub_selectorWord (p : Phase) (c : SubCode) (d : Bool) : selectorSub (selectorWord p c d) = c := by
  cases p <;> cases d <;> revert c <;> decide

@[simp] theorem selectorDin_selectorWord (p : Phase) (c : SubCode) (d : Bool) : selectorDin (selectorWord p c d) = d := by
  cases p <;> cases d <;> revert c <;> decide

/-- A selector word is its three fields and nothing else. -/
theorem selectorWord_fields (S : BitVec 5) : selectorWord (selectorPhase S) (selectorSub S) (selectorDin S) = S := by
  revert S
  decide

/-- The four sub-state codes. -/
theorem subCode_cases (c : SubCode) : c = 0b00#2 ∨ c = 0b01#2 ∨ c = 0b10#2 ∨ c = 0b11#2 := by
  revert c
  decide

end Sys2Proof

namespace Sys2Proof.Machine

theorem resetSeen_iff (s : State) : s.resetSeen = true ↔ ResetSeen s := by
  simp [State.resetSeen]

theorem resyncOn_iff (s : State) : s.resyncOn = true ↔ s.cfg.resync = .anyWait := by
  simp [State.resyncOn]

/-- How `cbit` compares with `CAP_BITS` in the guards. -/
theorem guards_cbitVsCap (s : State) :
    (s.guards.cbitVsCap = .lt ↔ s.cbit < capBits s.cfg) ∧ (s.guards.cbitVsCap = .eq ↔ s.cbit = capBits s.cfg) ∧
      (s.guards.cbitVsCap = .gt ↔ capBits s.cfg < s.cbit) := by
  by_cases he : s.cbit = capBits s.cfg
  · simp [State.guards, State.capDone, he]
  · by_cases hl : s.cbit < capBits s.cfg
    · simp [State.guards, State.capDone, he, hl]
      omega
    · simp [State.guards, State.capDone, he, hl]
      omega

/-- The decoder at a state, by the code of the state register. -/
theorem decoded_eq (s : State) :
    s.decoded =
      match s.phase with
      | .waitReset => if s.sub = 0b00#2 then .row (decodeWaitReset s.din s.guards) else .reservedCode
      | .capture =>
        if s.sub = 0b00#2 then .row (decodeCaptureWaitHigh s.din s.guards)
        else if s.sub = 0b01#2 then .row (decodeCaptureDelay s.guards)
        else if s.sub = 0b10#2 then decodeCaptureWaitLow s.din s.guards
        else .reservedCode
      | .relay =>
        if s.sub = 0b00#2 then .row (decodeRelayWaitHigh s.din s.guards)
        else if s.sub = 0b01#2 then .row (decodeRelayHold s.din s.guards)
        else if s.sub = 0b10#2 then .row (decodeRelayFollow s.din)
        else .reservedCode
      | .commit => if s.sub = 0b00#2 then .row .commit else .reservedCode := by
  cases hp : s.phase <;>
    simp only [State.decoded, State.selector, decode, hp, selectorPhase_selectorWord, selectorSub_selectorWord,
      selectorDin_selectorWord]

/-- If a row's pattern and guard hold of the state, the decoder answers it (R79, R80). -/
theorem decoded_of_rowApplies {s : State} {i : Instr} (h : RowApplies i s) : s.decoded = .row i := by
  obtain ⟨hlt, heq, -⟩ := guards_cbitVsCap s
  rw [decoded_eq]
  cases i <;>
    simp_all [RowApplies, AtCode, decodeWaitReset, decodeCaptureWaitHigh, decodeRelayWaitHigh, decodeRelayFollow,
      decodeCaptureDelay, decodeRelayHold, decodeCaptureWaitLow, State.guards, State.resetSeen, State.resyncOn]

/-- In a legal code some row's pattern and guard hold (R79); where `cbit` is tested, it must be in its range (R24). -/
theorem exists_rowApplies {s : State} (hl : legalCode s.phase s.sub = true)
    (hb : AtCode s .capture 0b10#2 → s.din = false → s.cbit ≤ capBits s.cfg) :
    ∃ i, RowApplies i s := by
  cases hp : s.phase <;> obtain hc | hc | hc | hc := subCode_cases s.sub <;>
    first
    | (exact absurd hl (by rw [hp, hc]; decide))
    | skip
  case waitReset.inl =>
    by_cases hd : s.din = true
    · exact ⟨.wrActive, ⟨hp, hc⟩, hd⟩
    · by_cases hr : ResetSeen s
      · exact ⟨.wrExit, ⟨hp, hc⟩, by simpa using hd, hr⟩
      · exact ⟨.wrCount, ⟨hp, hc⟩, by simpa using hd, hr⟩
  case capture.inl =>
    by_cases hd : s.din = true
    · exact ⟨.cwhStart, ⟨hp, hc⟩, hd⟩
    · by_cases hr : ResyncNow s
      · exact ⟨.cwhResync, ⟨hp, hc⟩, by simpa using hd, hr⟩
      · exact ⟨.cwhIdle, ⟨hp, hc⟩, by simpa using hd, hr⟩
  case capture.inr.inl =>
    by_cases hz : s.dcnt = 0
    · exact ⟨.cdSample, ⟨hp, hc⟩, hz⟩
    · exact ⟨.cdCount, ⟨hp, hc⟩, hz⟩
  case capture.inr.inr.inl =>
    by_cases hd : s.din = true
    · exact ⟨.cwlHold, ⟨hp, hc⟩, hd⟩
    · obtain hlt | heq := Nat.lt_or_eq_of_le (hb ⟨hp, hc⟩ (by simpa using hd))
      · exact ⟨.cwlNext, ⟨hp, hc⟩, by simpa using hd, hlt⟩
      · exact ⟨.cwlDone, ⟨hp, hc⟩, by simpa using hd, heq⟩
  case relay.inl =>
    by_cases hd : s.din = true
    · exact ⟨.rwhStart, ⟨hp, hc⟩, hd⟩
    · by_cases hr : ResyncNow s
      · exact ⟨.rwhEnd, ⟨hp, hc⟩, by simpa using hd, hr⟩
      · exact ⟨.rwhIdle, ⟨hp, hc⟩, by simpa using hd, hr⟩
  case relay.inr.inl =>
    by_cases hz : s.hcnt = 0
    · by_cases hd : s.din = true
      · exact ⟨.rhLong, ⟨hp, hc⟩, hd, hz⟩
      · exact ⟨.rhShort, ⟨hp, hc⟩, by simpa using hd, hz⟩
    · exact ⟨.rhCount, ⟨hp, hc⟩, hz⟩
  case relay.inr.inr.inl =>
    by_cases hd : s.din = true
    · exact ⟨.rfHold, ⟨hp, hc⟩, hd⟩
    · exact ⟨.rfFall, ⟨hp, hc⟩, by simpa using hd⟩
  case commit.inl => exact ⟨.commit, hp, hc⟩

/-- The decoder answers `reservedCode` exactly in a reserved code (R81). -/
theorem decoded_reserved_iff (s : State) : s.decoded = .reservedCode ↔ legalCode s.phase s.sub = false := by
  rw [decoded_eq]
  cases hp : s.phase <;> obtain hc | hc | hc | hc := subCode_cases s.sub <;> simp [legalCode, hc, decodeCaptureWaitLow]
  cases s.din
  · cases s.guards.cbitVsCap <;> simp
  · simp

/-- The decoder answers `cbitOutOfRange` exactly where CWL_NEXT or CWL_DONE would test a `cbit` above its range. -/
theorem decoded_cbitOutOfRange_iff (s : State) :
    s.decoded = .cbitOutOfRange ↔ AtCode s .capture 0b10#2 ∧ s.din = false ∧ capBits s.cfg < s.cbit := by
  obtain ⟨-, -, hgt⟩ := guards_cbitVsCap s
  rw [decoded_eq, ← hgt]
  cases hp : s.phase <;> obtain hc | hc | hc | hc := subCode_cases s.sub <;> simp [AtCode, hp, hc, decodeCaptureWaitLow]
  cases s.din
  · cases s.guards.cbitVsCap <;> simp
  · simp

/-- The decoder answers a row exactly when the row's pattern and guard hold of the state (R79, R80). -/
theorem decoded_row_iff (s : State) (i : Instr) : s.decoded = .row i ↔ RowApplies i s := by
  refine ⟨fun h => ?_, decoded_of_rowApplies⟩
  have hl : legalCode s.phase s.sub = true := by
    by_contra hn
    have := (decoded_reserved_iff s).mpr (by simpa using hn)
    simp [this] at h
  obtain ⟨j, hj⟩ := exists_rowApplies hl fun hc hd => by
    by_contra hn
    have := (decoded_cbitOutOfRange_iff s).mpr ⟨hc, hd, by omega⟩
    simp [this] at h
  have hd := decoded_of_rowApplies hj
  rw [h] at hd
  injection hd with hd
  exact hd ▸ hj

end Sys2Proof.Machine
end

