-- ==== Sys2Proof/Laws/PerInstr.lean ====
section
/-! SUPPORT. Statements made per instruction: the words the encoder writes for a row carry the row's pattern in the bits the
pattern fixes, and the free value in the bit it leaves open, for each row of the table. -/

namespace Sys2Proof.Laws.EncodedRowDecodes

/-- Both words of the row match its pattern, and the least guards that satisfy its guard make the decoder answer it. -/
def Statement (i : Instr) : Prop :=
  (∀ x, encode i x &&& i.mask = i.pattern) ∧ ∃ g, i.guard g = true ∧ ∀ x, decode (encode i x) g = .row i

theorem wrActive : Statement .wrActive := ⟨by decide, ⟨true, false, true, true, .lt⟩, by decide, by decide⟩
theorem wrCount : Statement .wrCount := ⟨by decide, ⟨false, false, true, true, .lt⟩, by decide, by decide⟩
theorem wrExit : Statement .wrExit := ⟨by decide, ⟨true, true, true, true, .lt⟩, by decide, by decide⟩
theorem cwhIdle : Statement .cwhIdle := ⟨by decide, ⟨true, false, true, true, .lt⟩, by decide, by decide⟩
theorem cwhResync : Statement .cwhResync := ⟨by decide, ⟨true, true, true, true, .lt⟩, by decide, by decide⟩
theorem cwhStart : Statement .cwhStart := ⟨by decide, ⟨true, false, true, true, .lt⟩, by decide, by decide⟩
theorem cdCount : Statement .cdCount := ⟨by decide, ⟨true, false, false, true, .lt⟩, by decide, by decide⟩
theorem cdSample : Statement .cdSample := ⟨by decide, ⟨true, false, true, true, .lt⟩, by decide, by decide⟩
theorem cwlHold : Statement .cwlHold := ⟨by decide, ⟨true, false, true, true, .lt⟩, by decide, by decide⟩
theorem cwlNext : Statement .cwlNext := ⟨by decide, ⟨true, false, true, true, .lt⟩, by decide, by decide⟩
theorem cwlDone : Statement .cwlDone := ⟨by decide, ⟨true, false, true, true, .eq⟩, by decide, by decide⟩
theorem rwhIdle : Statement .rwhIdle := ⟨by decide, ⟨true, false, true, true, .lt⟩, by decide, by decide⟩
theorem rwhEnd : Statement .rwhEnd := ⟨by decide, ⟨true, true, true, true, .lt⟩, by decide, by decide⟩
theorem rwhStart : Statement .rwhStart := ⟨by decide, ⟨true, false, true, true, .lt⟩, by decide, by decide⟩
theorem rhCount : Statement .rhCount := ⟨by decide, ⟨true, false, true, false, .lt⟩, by decide, by decide⟩
theorem rhShort : Statement .rhShort := ⟨by decide, ⟨true, false, true, true, .lt⟩, by decide, by decide⟩
theorem rhLong : Statement .rhLong := ⟨by decide, ⟨true, false, true, true, .lt⟩, by decide, by decide⟩
theorem rfHold : Statement .rfHold := ⟨by decide, ⟨true, false, true, true, .lt⟩, by decide, by decide⟩
theorem rfFall : Statement .rfFall := ⟨by decide, ⟨true, false, true, true, .lt⟩, by decide, by decide⟩
theorem commit : Statement .commit := ⟨by decide, ⟨true, false, true, true, .lt⟩, by decide, by decide⟩

end Sys2Proof.Laws.EncodedRowDecodes
end

