-- ==== Sys2Proof/Laws/Step.lean ====
section
/-! SUPPORT. What a step can do, and the meaning of each row as one equation. -/

namespace Sys2Proof.Machine

/-- If a step answers a next state, the configuration is legal, and either the cycle is a reset cycle, or the block has been
reset and runs the row it decoded. -/
theorem step_cases {s t : State} (h : step s = .next t) :
    s.cfg.wf = true ∧
      ((s.rst = true ∧ t = s.resetCycle) ∨
        (s.rst = false ∧ s.resetDone = true ∧ ∃ i, s.decoded = .row i ∧ exec i s = .next t)) := by
  unfold step at h
  split at h
  · cases h
  · rename_i hc
    refine ⟨(configRefusal_eq_none_iff _).mp hc, ?_⟩
    split at h
    · rename_i hr
      injection h with h
      exact .inl ⟨hr, h.symm⟩
    · rename_i hr
      split at h
      · rename_i hd
        split at h
        · rename_i i hi
          exact .inr ⟨by simpa using hr, hd, i, hi, h⟩
        · cases h
        · cases h
      · cases h

/-- A running block runs the row it decoded. -/
theorem step_of_decoded {s : State} {i : Instr} (hr : Running s) (h : s.decoded = .row i) : step s = exec i s := by
  obtain ⟨hw, hd, hrst⟩ := hr
  simp [step, (configRefusal_eq_none_iff _).mpr hw, hrst, hd, h]

theorem exec_wrActive (s : State) : exec .wrActive s = .next (s.endCycle s) := rfl
theorem exec_wrCount (s : State) : exec .wrCount s = .next (s.endCycle s) := rfl
theorem exec_wrExit (s : State) : exec .wrExit s = .next (s.endCycle (s.capInit.goto .capture 0b00#2)) := rfl
theorem exec_cwhIdle (s : State) : exec .cwhIdle s = .next (s.endCycle s) := rfl
theorem exec_cwhResync (s : State) : exec .cwhResync s = .next (s.endCycle (s.capInit.goto .capture 0b00#2)) := rfl
theorem exec_cwhStart (s : State) :
    exec .cwhStart s = .next (s.endCycle { s with dcnt := dcntLoad s.cfg, phase := .capture, sub := 0b01#2 }) := rfl
theorem exec_cdCount (s : State) : exec .cdCount s = .next (s.endCycle { s with dcnt := s.dcnt - 1 }) := rfl
theorem exec_cdSample (s : State) :
    exec .cdSample s = .next (s.endCycle
      { s with
        cap := if s.byteDone then channelSet s.cap (byteIndex s.cbit) (dutyValue (assembleBit s.shreg s.din)) else s.cap
        shreg := assembleBit s.shreg s.din
        cbit := s.cbit + 1
        phase := .capture
        sub := 0b10#2 }) := by
  cases h : s.byteDone <;> simp [exec, execCdSample, h, State.byteStore]
theorem exec_cwlHold (s : State) : exec .cwlHold s = .next (s.endCycle s) := rfl
theorem exec_cwlNext (s : State) : exec .cwlNext s = .next (s.endCycle (s.goto .capture 0b00#2)) := rfl
theorem exec_cwlDone (s : State) : exec .cwlDone s = .next (s.endCycle (s.relayInit.goto .relay 0b00#2)) := rfl
theorem exec_rwhIdle (s : State) : exec .rwhIdle s = .next (s.endCycle s) := rfl
theorem exec_rwhEnd (s : State) : exec .rwhEnd s = .next (s.endCycle (s.goto .commit 0b00#2)) := rfl
theorem exec_rwhStart (s : State) :
    exec .rwhStart s = .next (s.endCycle { s with dout := true, hcnt := hcntLoad s.cfg, phase := .relay, sub := 0b01#2 }) := rfl
theorem exec_rhCount (s : State) : exec .rhCount s = .next (s.endCycle { s with hcnt := s.hcnt - 1 }) := rfl
theorem exec_rhShort (s : State) : exec .rhShort s = .next (s.endCycle s.relayDone) := rfl
theorem exec_rhLong (s : State) : exec .rhLong s = .next (s.endCycle (s.goto .relay 0b10#2)) := rfl
theorem exec_rfHold (s : State) : exec .rfHold s = .next (s.endCycle s) := rfl
theorem exec_rfFall (s : State) : exec .rfFall s = .next (s.endCycle s.relayDone) := rfl
theorem exec_commit (s : State) :
    exec .commit s = .next (s.endCycle { s with pwm := s.cap, phase := .waitReset, sub := 0b00#2 }) := rfl

/-- A run of no cycles stays where it is. -/
@[simp] theorem runs_zero (s t : State) : Runs 0 s t ↔ s = t := Iff.rfl

/-- A run is one step and the run from there. -/
theorem runs_succ (n : Nat) (s t : State) : Runs (n + 1) s t ↔ ∃ u, step s = .next u ∧ Runs n u t := Iff.rfl

/-- A run is a run and another from where it ends. -/
theorem runs_add (m n : Nat) (s t : State) : Runs (m + n) s t ↔ ∃ u, Runs m s u ∧ Runs n u t := by
  induction m generalizing s with
  | zero => simp
  | succ m ih =>
    rw [Nat.succ_add, runs_succ]
    simp only [ih, runs_succ]
    constructor
    · rintro ⟨v, hv, u, hu, ht⟩
      exact ⟨u, ⟨v, hv, hu⟩, ht⟩
    · rintro ⟨u, ⟨v, hv, hu⟩, ht⟩
      exact ⟨v, hv, u, hu, ht⟩

/-- A run has one end. -/
theorem runs_unique {n : Nat} {s t u : State} (ht : Runs n s t) (hu : Runs n s u) : t = u := by
  induction n generalizing s with
  | zero => exact ht.symm.trans hu
  | succ n ih =>
    obtain ⟨v, hv, ht⟩ := ht
    obtain ⟨w, hw, hu⟩ := hu
    rw [hv] at hw
    injection hw with hw
    subst hw
    exact ih ht hu

/-- The host's run over a step that answers a next state. -/
theorem core_run_of_next (M : Host.Core) (n : Nat) {s u : M.State} (h : M.step s = .next u) : M.run (n + 1) s = M.run n u := by
  simp [Host.Core.run, h]

/-- The host's run over a step that stops is no next state. -/
theorem core_run_of_stop (M : Host.Core) (n : Nat) {s t : M.State} (h : ∀ u, M.step s ≠ .next u) : M.run (n + 1) s ≠ .next t := by
  unfold Host.Core.run
  cases hs : M.step s with
  | next u => exact absurd hs (h u)
  | fault r => simp
  | refused r => simp

/-- A run is what the host's `Core.run` answers. -/
theorem runs_iff_core_run (n : Nat) (s t : State) : Runs n s t ↔ Host.Core.run Sys2Proof.core n s = Host.Outcome.next t := by
  induction n generalizing s with
  | zero =>
    show s = t ↔ (Host.Outcome.next s : Host.Outcome State Fault Refusal) = .next t
    exact ⟨fun h => h ▸ rfl, fun h => by injection h⟩
  | succ n ih =>
    by_cases h : ∃ u, step s = .next u
    · obtain ⟨u, hu⟩ := h
      have he : Host.Core.run Sys2Proof.core (n + 1) s = Host.Core.run Sys2Proof.core n u :=
        core_run_of_next Sys2Proof.core n hu
      rw [runs_succ, he, ← ih]
      constructor
      · rintro ⟨v, hv, ht⟩
        rw [hu] at hv
        injection hv with hv
        exact hv ▸ ht
      · exact fun ht => ⟨u, hu, ht⟩
    · have hs : Host.Core.run Sys2Proof.core (n + 1) s ≠ Host.Outcome.next t :=
        core_run_of_stop Sys2Proof.core n fun u hu => h ⟨u, hu⟩
      exact ⟨fun ⟨u, hu, _⟩ => absurd ⟨u, hu⟩ h, fun ht => absurd ht hs⟩

end Sys2Proof.Machine
end

