-- ==== Sys2Proof/Tests/Slice0.lean ====
section
/-! SUPPORT. The model's own tests. Expected results come from the spec: 95_test_vectors.md (the vector is named with each
test) and the table of R80. After them, for each statement with hypotheses, a state that meets all of them together. -/

namespace Sys2Proof.Tests

open Sys2Proof.Machine

/-! ### Well-formedness: each check refuses an ill-formed term, and takes the values next to it (R6, R9, R11, R81, R90) -/

theorem test_reference_wf : Config.reference.wf = true := by decide
theorem test_pixels_refused : ({ Config.reference with pixels := 0 } : Config).pixelsOk = false ∧
    ({ Config.reference with pixels := 3 } : Config).pixelsOk = false := by decide
theorem test_relayBudget_refused : ({ Config.reference with relayBudget := 0 } : Config).relayBudgetOk = false ∧
    ({ Config.reference with relayBudget := 255 } : Config).relayBudgetOk = true ∧
    ({ Config.reference with relayBudget := 256 } : Config).relayBudgetOk = false := by decide
theorem test_timing_refused : ({ Config.reference with tSample := 0 } : Config).timingOk = false ∧
    ({ Config.reference with tHold := 0 } : Config).timingOk = false ∧
    ({ Config.reference with tReset := 5 } : Config).timingOk = true ∧
    ({ Config.reference with tReset := 4 } : Config).timingOk = false := by decide
theorem test_wf_refused : ({ Config.reference with pixels := 3 } : Config).wf = false ∧
    ({ Config.reference with relayBudget := 0 } : Config).wf = false ∧
    ({ Config.reference with tReset := 4 } : Config).wf = false := by decide
theorem test_legalCode_refused : legalCode .waitReset 0b01#2 = false ∧ legalCode .capture 0b11#2 = false ∧
    legalCode .relay 0b11#2 = false ∧ legalCode .commit 0b10#2 = false := by decide
theorem test_stim_refused : stimWf (.low 0) = false ∧ stimWf (.seq .b0 (.rep 2 (.high 0))) = false ∧
    stimWf (.rst 0) = false ∧ stimWf (.seq .reset (.low 1)) = true := by decide

/-! ### Decoding: the words of R80, written out, with guards that hold, for every row -/

/-- Guards: `resync_on`, `reset_seen`, `dcnt = 0`, `hcnt = 0`, `cbit` against `CAP_BITS`. -/
theorem test_decode_waitReset : decode 0b00001#5 ⟨true, false, true, true, .lt⟩ = .row .wrActive ∧
    decode 0b00000#5 ⟨true, false, true, true, .lt⟩ = .row .wrCount ∧
    decode 0b00000#5 ⟨false, true, true, true, .lt⟩ = .row .wrExit := by decide
theorem test_decode_captureWaitHigh : decode 0b01000#5 ⟨true, false, true, true, .lt⟩ = .row .cwhIdle ∧
    decode 0b01000#5 ⟨false, true, true, true, .lt⟩ = .row .cwhIdle ∧
    decode 0b01000#5 ⟨true, true, true, true, .lt⟩ = .row .cwhResync ∧
    decode 0b01001#5 ⟨true, false, true, true, .lt⟩ = .row .cwhStart := by decide
theorem test_decode_captureDelay : decode 0b01010#5 ⟨true, false, false, true, .lt⟩ = .row .cdCount ∧
    decode 0b01011#5 ⟨true, false, false, true, .lt⟩ = .row .cdCount ∧
    decode 0b01010#5 ⟨true, true, true, true, .lt⟩ = .row .cdSample ∧
    decode 0b01011#5 ⟨true, false, true, true, .lt⟩ = .row .cdSample := by decide
theorem test_decode_captureWaitLow : decode 0b01101#5 ⟨true, false, true, true, .eq⟩ = .row .cwlHold ∧
    decode 0b01100#5 ⟨true, false, true, true, .lt⟩ = .row .cwlNext ∧
    decode 0b01100#5 ⟨true, false, true, true, .eq⟩ = .row .cwlDone ∧
    decode 0b01100#5 ⟨true, false, true, true, .gt⟩ = .cbitOutOfRange := by decide
theorem test_decode_relayWaitHigh : decode 0b10000#5 ⟨true, false, true, true, .eq⟩ = .row .rwhIdle ∧
    decode 0b10000#5 ⟨true, true, true, true, .eq⟩ = .row .rwhEnd ∧
    decode 0b10001#5 ⟨true, false, true, true, .eq⟩ = .row .rwhStart := by decide
theorem test_decode_relayHold : decode 0b10010#5 ⟨true, false, true, false, .eq⟩ = .row .rhCount ∧
    decode 0b10011#5 ⟨true, false, true, false, .eq⟩ = .row .rhCount ∧
    decode 0b10010#5 ⟨true, true, true, true, .eq⟩ = .row .rhShort ∧
    decode 0b10011#5 ⟨true, false, true, true, .eq⟩ = .row .rhLong := by decide
theorem test_decode_relayFollow : decode 0b10101#5 ⟨true, false, true, true, .eq⟩ = .row .rfHold ∧
    decode 0b10100#5 ⟨true, false, true, true, .eq⟩ = .row .rfFall := by decide
theorem test_decode_commit : decode 0b11000#5 ⟨true, true, true, true, .eq⟩ = .row .commit ∧
    decode 0b11001#5 ⟨true, false, true, true, .eq⟩ = .row .commit := by decide
/-- R81: the reserved values at the ends of each listed range. -/
theorem test_decode_reserved : ∀ w ∈ [0b00010#5, 0b00111#5, 0b01110#5, 0b01111#5, 0b10110#5, 0b10111#5, 0b11010#5, 0b11111#5],
    decode w ⟨true, true, true, true, .eq⟩ = .reservedCode := by decide

/-- The guards of the table's reader are those of the state after reset, whatever word stands in the selector (log 7). -/
theorem test_guards_after_reset : ∀ w ∈ List.range 32, ((State.reset.withFetchWord 8 w).selector = BitVec.ofNat 5 w) ∧
    ((State.reset.withFetchWord 8 w).decoded = decode (BitVec.ofNat 5 w) guardsAfterReset) := by decide

/-! ### One step of each row, on the vectors of 95_test_vectors.md §2 -/

/-- The state of the reference configuration RC with this state register and this input. -/
def rcAt (p : Phase) (c : SubCode) (d : Bool) : State :=
  { State.resetWith Config.reference with phase := p, sub := c, stim := [{ rst := false, din := d }] }

/-- The state with `PIXELS = 1`. -/
def onePixel (s : State) : State := { s with cfg := { s.cfg with pixels := 1 } }

/-- The state with `RESYNC = WAIT_RESET_ONLY`. -/
def noResync (s : State) : State := { s with cfg := { s.cfg with resync := .waitResetOnly } }

/-- The next state of an outcome, if it is one. -/
def nextOf : Host.Outcome State Fault Refusal → Option State
  | .next s => some s
  | .fault _ => none
  | .refused _ => none

/-- The row that applies and what the step leaves, seen through `f`. -/
def after {α : Type} (s : State) (f : State → α) : Decoded × Option α := (s.decoded, (nextOf (step s)).map f)

/-- D1.2. -/
theorem test_wrActive : after { rcAt .waitReset 0b00#2 true with idleRun := 5 } (fun t => (t.phase, t.idleRun)) =
    (.row .wrActive, some (.waitReset, 0)) := by decide
/-- D1.3. -/
theorem test_wrCount : after { rcAt .waitReset 0b00#2 false with idleRun := 3 } (fun t => (t.phase, t.idleRun)) =
    (.row .wrCount, some (.waitReset, 4)) := by decide
/-- D1.5. -/
theorem test_wrExit : after { rcAt .waitReset 0b00#2 false with idleRun := 7, cbit := 9, shreg := 0x55#8 }
    (fun t => (t.phase, t.sub, t.idleRun, t.cbit, t.shreg)) = (.row .wrExit, some (.capture, 0b00#2, 8, 0, 0x00#8)) := by decide
/-- D1.8. -/
theorem test_wrExit_onePixel : after (onePixel { rcAt .waitReset 0b00#2 false with idleRun := 7 }) (fun t => t.cap) =
    (.row .wrExit, some ⟨0x00#8, 0x00#8, 0x00#8, 0xFF#8, 0xFF#8, 0xFF#8⟩) := by decide
/-- D2.1. -/
theorem test_cwhIdle : after { rcAt .capture 0b00#2 false with cbit := 5, idleRun := 2 } (fun t => (t.sub, t.cbit, t.idleRun)) =
    (.row .cwhIdle, some (0b00#2, 5, 3)) := by decide
/-- D2.3. -/
theorem test_cwhIdle_noResync : after (noResync { rcAt .capture 0b00#2 false with cbit := 30, idleRun := 7 })
    (fun t => (t.sub, t.cbit, t.idleRun)) = (.row .cwhIdle, some (0b00#2, 30, 8)) := by decide
/-- D2.2. -/
theorem test_cwhResync : after { rcAt .capture 0b00#2 false with cbit := 30, shreg := 0x55#8, idleRun := 7 }
    (fun t => (t.phase, t.cbit, t.shreg, t.idleRun)) = (.row .cwhResync, some (.capture, 0, 0x00#8, 8)) := by decide
/-- D2.4. -/
theorem test_cwhStart : after { rcAt .capture 0b00#2 true with idleRun := 4 } (fun t => (t.sub, t.dcnt, t.idleRun)) =
    (.row .cwhStart, some (0b01#2, 2, 0)) := by decide
/-- D2.6. -/
theorem test_cdCount : after { rcAt .capture 0b01#2 true with dcnt := 2 } (fun t => (t.sub, t.dcnt)) =
    (.row .cdCount, some (0b01#2, 1)) := by decide
/-- D2.7. -/
theorem test_cdCount_ignores_line : after { rcAt .capture 0b01#2 false with dcnt := 1 } (fun t => (t.sub, t.dcnt)) =
    (.row .cdCount, some (0b01#2, 0)) := by decide
/-- D2.10: no store, and bit 7 is shifted out. -/
theorem test_cdSample : after { rcAt .capture 0b01#2 false with shreg := 0xA5#8, cbit := 8 }
    (fun t => (t.sub, t.shreg, t.cbit, t.cap.b0)) = (.row .cdSample, some (0b10#2, 0x4A#8, 9, 0x00#8)) := by decide
/-- D2.12: the byte's complement is stored in its entry. -/
theorem test_cdSample_stores : after (onePixel { rcAt .capture 0b01#2 true with shreg := 0x2B#8, cbit := 23 })
    (fun t => (t.shreg, t.cbit, t.cap)) =
    (.row .cdSample, some (0x57#8, 24, ⟨0x00#8, 0x00#8, 0xA8#8, 0x00#8, 0x00#8, 0x00#8⟩)) := by decide
/-- D2.13. -/
theorem test_cwlHold : after { rcAt .capture 0b10#2 true with cbit := 48 } (fun t => (t.phase, t.sub, t.cbit)) =
    (.row .cwlHold, some (.capture, 0b10#2, 48)) := by decide
/-- D2.17. -/
theorem test_cwlNext : after { rcAt .capture 0b10#2 false with cbit := 24 } (fun t => (t.phase, t.sub, t.cbit)) =
    (.row .cwlNext, some (.capture, 0b00#2, 24)) := by decide
/-- D2.15. -/
theorem test_cwlDone : after { rcAt .capture 0b10#2 false with cbit := 48, rbit := 7 }
    (fun t => (t.phase, t.sub, t.rbit, t.budget)) = (.row .cwlDone, some (.relay, 0b00#2, 0, 2#8)) := by decide
/-- D2.16. -/
theorem test_cwlDone_onePixel : after (onePixel { rcAt .capture 0b10#2 false with cbit := 24 })
    (fun t => (t.phase, t.budget)) = (.row .cwlDone, some (.relay, 2#8)) := by decide
/-- D3.1a. -/
theorem test_rwhIdle : after { rcAt .relay 0b00#2 false with idleRun := 3 } (fun t => (t.phase, t.sub, t.idleRun)) =
    (.row .rwhIdle, some (.relay, 0b00#2, 4)) := by decide
/-- D3.1c. -/
theorem test_rwhIdle_noResync : after (noResync { rcAt .relay 0b00#2 false with idleRun := 7 }) (fun t => (t.phase, t.idleRun)) =
    (.row .rwhIdle, some (.relay, 8)) := by decide
/-- D3.1b. -/
theorem test_rwhEnd : after { rcAt .relay 0b00#2 false with budget := 2#8, idleRun := 7 }
    (fun t => (t.phase, t.sub, t.idleRun, t.budget)) = (.row .rwhEnd, some (.commit, 0b00#2, 8, 2#8)) := by decide
/-- D3.1d. -/
theorem test_rwhStart : after (rcAt .relay 0b00#2 true) (fun t => (t.sub, t.hcnt, t.dout)) =
    (.row .rwhStart, some (0b01#2, 1, true)) := by decide
/-- D3.1f. -/
theorem test_rhCount : after { rcAt .relay 0b01#2 false with hcnt := 1, dout := true } (fun t => (t.sub, t.hcnt, t.dout)) =
    (.row .rhCount, some (0b01#2, 0, true)) := by decide
/-- D3.1h. -/
theorem test_rhShort : after { rcAt .relay 0b01#2 false with rbit := 23, budget := 2#8, dout := true }
    (fun t => (t.phase, t.sub, t.rbit, t.budget, t.dout)) = (.row .rhShort, some (.relay, 0b00#2, 0, 1#8, false)) := by decide
/-- D3.1i. -/
theorem test_rhShort_last : after { rcAt .relay 0b01#2 false with rbit := 23, budget := 1#8, dout := true }
    (fun t => (t.phase, t.sub, t.rbit, t.budget, t.dout)) = (.row .rhShort, some (.commit, 0b00#2, 0, 0#8, false)) := by decide
/-- D3.1j. -/
theorem test_rhLong : after { rcAt .relay 0b01#2 true with dout := true } (fun t => (t.sub, t.dout)) =
    (.row .rhLong, some (0b10#2, true)) := by decide
/-- D3.1k. -/
theorem test_rfHold : after { rcAt .relay 0b10#2 true with dout := true } (fun t => (t.sub, t.dout)) =
    (.row .rfHold, some (0b10#2, true)) := by decide
/-- D3.1l. -/
theorem test_rfFall_last : after { rcAt .relay 0b10#2 false with rbit := 23, budget := 1#8, dout := true }
    (fun t => (t.phase, t.rbit, t.budget, t.dout)) = (.row .rfFall, some (.commit, 0, 0#8, false)) := by decide
/-- D3.1m. -/
theorem test_rfFall : after { rcAt .relay 0b10#2 false with rbit := 10, budget := 1#8, dout := true }
    (fun t => (t.phase, t.rbit, t.budget, t.dout)) = (.row .rfFall, some (.relay, 11, 1#8, false)) := by decide
/-- D4.1. -/
theorem test_commit : after { rcAt .commit 0b00#2 false with cap := ⟨0x00#8, 0xFF#8, 0xFF#8, 0xFF#8, 0x00#8, 0xFF#8⟩, idleRun := 7 }
    (fun t => (t.phase, t.pwm, t.idleRun)) =
    (.row .commit, some (.waitReset, ⟨0x00#8, 0xFF#8, 0xFF#8, 0xFF#8, 0x00#8, 0xFF#8⟩, 8)) := by decide
/-- D4.2. -/
theorem test_commit_active : after { rcAt .commit 0b00#2 true with cap := ⟨0x12#8, 0x34#8, 0x56#8, 0x78#8, 0x9A#8, 0xBC#8⟩, idleRun := 7 }
    (fun t => (t.pwm, t.idleRun)) = (.row .commit, some (⟨0x12#8, 0x34#8, 0x56#8, 0x78#8, 0x9A#8, 0xBC#8⟩, 0)) := by decide

/-- D5.1: a reset cycle in `R_FOLLOW`. -/
theorem test_reset : (nextOf (step { rcAt .relay 0b10#2 true with
      dout := true, cap := ⟨0xFE#8, 0xFD#8, 0xFC#8, 0xFB#8, 0xFA#8, 0xF9#8⟩, cbit := 48, stim := [⟨true, true⟩] })).map
    (fun t => (t.phase, t.sub, t.dout, t.idleRun, t.cap.b5, t.cbit)) = some (.waitReset, 0b00#2, false, 0, 0xF9#8, 48) := by decide
/-- D5.3. -/
theorem test_unreset_refused : step { rcAt .waitReset 0b00#2 false with resetDone := false } = .refused .notReset := rfl
/-- D5.4. -/
theorem test_reserved_faults : step (rcAt .waitReset 0b01#2 false) = .fault .illegalState := rfl
/-- R24: no row applies with `cbit` above `CAP_BITS` (log 6). -/
theorem test_cbit_out_of_range_faults : step { rcAt .capture 0b10#2 false with cbit := 49 } = .fault .noRowApplies := rfl
/-- R6, R9, R11. -/
theorem test_bad_configuration_refused :
    step { rcAt .waitReset 0b00#2 false with cfg := { Config.reference with pixels := 3 } } = .refused .pixelsNotOneOrTwo ∧
    step { rcAt .waitReset 0b00#2 false with cfg := { Config.reference with relayBudget := 256 } } = .refused .relayBudgetOutOfRange ∧
    step { rcAt .waitReset 0b00#2 false with cfg := { Config.reference with tReset := 4 } } = .refused .timingOutOfRange :=
  ⟨rfl, rfl, rfl⟩

/-- D2.21, W1: `0xA5` is sent `10100101`, most significant bit first. -/
theorem test_byte_windows : expand { h0 := 1, l0 := 5, h1 := 4, l1 := 2 } (.byte 0xA5#8) =
    expand { h0 := 1, l0 := 5, h1 := 4, l1 := 2 }
      (.seq .b1 (.seq .b0 (.seq .b1 (.seq .b0 (.seq .b0 (.seq .b1 (.seq .b0 .b1))))))) := by decide

/-! ### Witnesses: for each statement with hypotheses, a state and operands that meet all of them together -/

/-- A state of RC with several inputs coming up, all with `rst = 0`. -/
def rcLine (p : Phase) (c : SubCode) (ds : List Bool) : State :=
  { State.resetWith Config.reference with phase := p, sub := c, stim := line ds }

/-- The tightest legal timing, D8.1. -/
def tightest : Config := { relayBudget := 1, tSample := 1, tHold := 1, tReset := 3 }

/-- The profile of D8.1, the tightest spacing R225 to R229 allow. -/
def tightProfile : Profile := { h0 := 1, l0 := 2, h1 := 2, l1 := 1 }

/-- A state in `R_FOLLOW` at the end of the last budgeted bit, with the line idle. -/
def lastBit : State := { rcAt .relay 0b10#2 false with rbit := 23, budget := 1#8, dout := true, cbit := 48 }

theorem lastBit_inv : StateInv lastBit := by constructor <;> decide
theorem lastBit_inRange : InRange lastBit := by constructor <;> decide
theorem reset_inv : StateInv State.reset := by constructor <;> decide
theorem tightest_inv : StateInv (State.resetWith tightest) := by constructor <;> decide
theorem reset_inRange : InRange State.reset := by constructor <;> decide

theorem witness_StepRunsDecodedRow : Running lastBit ∧ lastBit.decoded = .row .rfFall := by decide
theorem witness_DecodeOfEncodeIsTheRow : Instr.cwlDone.guard ⟨true, false, true, true, .eq⟩ = true ∧
    Instr.cdCount.guard ⟨true, false, false, true, .lt⟩ = true := by decide
theorem witness_ExactlyTheTableRowApplies : legalCode .capture 0b10#2 = true ∧
    (⟨true, false, true, true, .eq⟩ : Guards).cbitVsCap ≠ .gt := by decide
theorem witness_ReservedCodes : Running (rcAt .commit 0b01#2 true) ∧
    legalCode (rcAt .commit 0b01#2 true).phase (rcAt .commit 0b01#2 true).sub = false := by decide
theorem witness_ReservedCodes_step : ∃ t, step lastBit = .next t := ⟨_, rfl⟩

theorem witness_WrActive : Running (rcAt .waitReset 0b00#2 true) ∧ AtCode (rcAt .waitReset 0b00#2 true) .waitReset 0b00#2 ∧
    (rcAt .waitReset 0b00#2 true).din = true := by decide
theorem witness_WrCount : let s := { rcAt .waitReset 0b00#2 false with idleRun := 6 }
    Running s ∧ AtCode s .waitReset 0b00#2 ∧ s.din = false ∧ s.idleRun + 1 < s.cfg.tReset := by decide
theorem witness_WrExit : let s := { rcAt .waitReset 0b00#2 false with idleRun := 7 }
    Running s ∧ AtCode s .waitReset 0b00#2 ∧ s.din = false ∧ s.cfg.tReset ≤ s.idleRun + 1 := by decide
theorem witness_CwhIdle : let s := { rcAt .capture 0b00#2 false with idleRun := 6 }
    Running s ∧ AtCode s .capture 0b00#2 ∧ s.din = false ∧
      ¬ (s.cfg.resync = .anyWait ∧ s.cfg.tReset ≤ s.idleRun + 1) := by decide
theorem witness_CwhResync : let s := { rcAt .capture 0b00#2 false with idleRun := 7 }
    Running s ∧ AtCode s .capture 0b00#2 ∧ s.din = false ∧ s.cfg.resync = .anyWait ∧
      s.cfg.tReset ≤ s.idleRun + 1 := by decide
theorem witness_CwhStart : let s := rcAt .capture 0b00#2 true
    Running s ∧ AtCode s .capture 0b00#2 ∧ s.din = true := by decide
theorem witness_CdCount : let s := { rcAt .capture 0b01#2 false with dcnt := 1 }
    Running s ∧ AtCode s .capture 0b01#2 ∧ s.dcnt ≠ 0 := by decide
/-- The last bit of the last byte. -/
theorem witness_CdSample : let s := { rcAt .capture 0b01#2 true with cbit := 47 }
    Running s ∧ AtCode s .capture 0b01#2 ∧ s.dcnt = 0 ∧ s.cbit < capBits s.cfg ∧ (s.cbit + 1) % 8 = 0 := by decide
theorem witness_CwlHold : let s := rcAt .capture 0b10#2 true
    Running s ∧ AtCode s .capture 0b10#2 ∧ s.din = true := by decide
theorem witness_CwlNext : let s := { rcAt .capture 0b10#2 false with cbit := 47 }
    Running s ∧ AtCode s .capture 0b10#2 ∧ s.din = false ∧ s.cbit < 24 * s.cfg.pixels := by decide
theorem witness_CwlDone : let s := { rcAt .capture 0b10#2 false with cbit := 48 }
    Running s ∧ AtCode s .capture 0b10#2 ∧ s.din = false ∧ s.cbit = 24 * s.cfg.pixels := by decide
theorem witness_RwhIdle : let s := noResync { rcAt .relay 0b00#2 false with idleRun := 8 }
    Running s ∧ AtCode s .relay 0b00#2 ∧ s.din = false ∧
      ¬ (s.cfg.resync = .anyWait ∧ s.cfg.tReset ≤ s.idleRun + 1) := by decide
theorem witness_RwhEnd : let s := { rcAt .relay 0b00#2 false with idleRun := 7 }
    Running s ∧ AtCode s .relay 0b00#2 ∧ s.din = false ∧ s.cfg.resync = .anyWait ∧ s.cfg.tReset ≤ s.idleRun + 1 := by decide
theorem witness_RwhStart : let s := rcAt .relay 0b00#2 true
    Running s ∧ AtCode s .relay 0b00#2 ∧ s.din = true := by decide
theorem witness_RhCount : let s := { rcAt .relay 0b01#2 false with hcnt := 1 }
    Running s ∧ AtCode s .relay 0b01#2 ∧ s.hcnt ≠ 0 := by decide
/-- The last bit of the last pixel. -/
theorem witness_RhShort : let s := { rcAt .relay 0b01#2 false with rbit := 23, budget := 1#8 }
    Running s ∧ AtCode s .relay 0b01#2 ∧ s.hcnt = 0 ∧ s.din = false := by decide
theorem witness_RhLong : let s := rcAt .relay 0b01#2 true
    Running s ∧ AtCode s .relay 0b01#2 ∧ s.hcnt = 0 ∧ s.din = true := by decide
theorem witness_RfHold : let s := rcAt .relay 0b10#2 true
    Running s ∧ AtCode s .relay 0b10#2 ∧ s.din = true := by decide
theorem witness_RfFall : Running lastBit ∧ AtCode lastBit .relay 0b10#2 ∧ lastBit.din = false := by decide
theorem witness_Commit : let s := rcAt .commit 0b00#2 true
    Running s ∧ AtCode s .commit 0b00#2 := by decide

/-- A reset cycle met in a reserved code, before any reset. -/
def powerUp : State := { rcAt .capture 0b11#2 true with resetDone := false, stim := [{ rst := true, din := true }] }

theorem witness_ResetCycle : powerUp.cfg.wf = true ∧ powerUp.rst = true := by decide
theorem witness_UnresetBlock : let s := { rcAt .waitReset 0b00#2 true with resetDone := false }
    s.cfg.wf = true ∧ s.resetDone = false ∧ s.rst = false := by decide
theorem witness_ChosenResetValues : tightest.wf = true := by decide
theorem witness_InvariantsHoldAfterReset : tightest.wf = true ∧ powerUp.rst = true ∧ ∃ t, step powerUp = .next t :=
  ⟨by decide, by decide, _, rfl⟩
theorem witness_ConfigurationNeverChanges : ∃ t, step lastBit = .next t := ⟨_, rfl⟩
theorem witness_EveryStepKeepsTheInvariant : StateInv lastBit ∧ ∃ t, step lastBit = .next t := ⟨lastBit_inv, _, rfl⟩
theorem witness_EveryStepKeepsTheCountersInRange : StateInv lastBit ∧ InRange lastBit ∧ ∃ t, step lastBit = .next t :=
  ⟨lastBit_inv, lastBit_inRange, _, rfl⟩

/-- With `PIXELS = 1`, in COMMIT. -/
def onePixelCommit : State :=
  onePixel { rcAt .commit 0b00#2 false with cbit := 24, cap := ⟨0x01#8, 0x02#8, 0x03#8, 0xFF#8, 0xFF#8, 0xFF#8⟩ }

theorem witness_SinglePixelMode : StateInv onePixelCommit ∧ SentinelHeld onePixelCommit ∧
    (∃ t, step onePixelCommit = .next t) ∧ onePixelCommit.cfg.pixels = 1 ∧ onePixelCommit.phase = .commit ∧
      onePixelCommit.rst = false :=
  ⟨by constructor <;> decide, fun _ _ => by decide, ⟨_, rfl⟩, by decide⟩
theorem witness_NoInputStopsTheBlock : StateInv lastBit ∧ lastBit.resetDone = true ∧ tightest.wf = true :=
  ⟨lastBit_inv, by decide, by decide⟩

/-- The counter one below saturation, then two idle cycles. -/
theorem witness_IdleRunCounts : let s := { rcLine .capture 0b00#2 [false, false] with idleRun := 7 }
    s.idleRun ≤ s.cfg.tReset ∧ s.stim = line [false, false] ++ [] ∧ ∃ t, Runs [false, false].length s t :=
  ⟨by decide, by decide, _, _, rfl, _, rfl, rfl⟩
theorem witness_PhasesFollowTheirOrder : lastBit.rst = false ∧ ∃ t, step lastBit = .next t ∧ t.phase = .commit :=
  ⟨by decide, _, rfl, rfl⟩
theorem witness_RelayIsEntered : let s := { rcAt .capture 0b10#2 false with cbit := 48 }
    s.rst = false ∧ ∃ t, step s = .next t ∧ t.phase = .relay ∧ s.phase ≠ .relay := ⟨by decide, _, rfl, rfl, by decide⟩
theorem witness_CommitIsEntered : lastBit.rst = false ∧ ∃ t, step lastBit = .next t ∧ t.phase = .commit :=
  ⟨by decide, _, rfl, rfl⟩
theorem witness_CompareRegisters : (rcAt .commit 0b00#2 false).rst = false ∧ (rcAt .commit 0b00#2 false).phase = .commit ∧
    ∃ t, step (rcAt .commit 0b00#2 false) = .next t := ⟨by decide, by decide, _, rfl⟩
theorem witness_CompareRegisters_elsewhere : lastBit.rst = false ∧ lastBit.phase ≠ .commit ∧ ∃ t, step lastBit = .next t :=
  ⟨by decide, by decide, _, rfl⟩
theorem witness_OutputRises : (rcAt .relay 0b00#2 true).dout = false ∧
    ∃ t, step (rcAt .relay 0b00#2 true) = .next t ∧ t.dout = true := ⟨by decide, _, rfl, rfl⟩
theorem witness_OutputFalls : lastBit.dout = true ∧ ∃ t, step lastBit = .next t ∧ t.dout = false := ⟨by decide, _, rfl, rfl⟩
theorem witness_OutputIdle : StateInv State.reset ∧ (State.reset.phase ≠ .relay ∨ State.reset.sub = 0b00#2) :=
  ⟨reset_inv, by decide⟩
theorem witness_CapturedPixelsChange_capInit : let s := onePixel { rcAt .waitReset 0b00#2 false with idleRun := 7 }
    ∃ t, step s = .next t ∧ t.cap ≠ s.cap := ⟨_, rfl, by decide⟩
theorem witness_CapturedPixelsChange_store : let s := { rcAt .capture 0b01#2 false with cbit := 47 }
    ∃ t, step s = .next t ∧ t.cap ≠ s.cap := ⟨_, rfl, by decide⟩
theorem witness_WaitForActive_capture : let s := { rcAt .capture 0b10#2 false with cbit := 47 }
    s.rst = false ∧ ∃ t, step s = .next t ∧ AtCode t .capture 0b00#2 := ⟨by decide, _, rfl, rfl, rfl⟩
theorem witness_WaitForActive_relay : let s := { rcAt .capture 0b10#2 false with cbit := 48 }
    s.rst = false ∧ ∃ t, step s = .next t ∧ AtCode t .relay 0b00#2 := ⟨by decide, _, rfl, rfl, rfl⟩
theorem witness_ResyncRows : { rcAt .capture 0b00#2 false with idleRun := 7 }.decoded = .row .cwhResync ∧
    { rcAt .relay 0b00#2 false with idleRun := 7 }.decoded = .row .rwhEnd := by decide

/-- `C_DELAY` with the whole offset still to count, and the line idle for `max(T_SAMPLE, T_HOLD) + 1 = 4` cycles. -/
def idleInDelay : State := { rcLine .capture 0b01#2 [false, false, false, false] with dcnt := 2, cbit := 47 }

theorem witness_ResyncReachesAWaitState : StateInv idleInDelay ∧ InRange idleInDelay ∧ idleInDelay.resetDone = true ∧
    idleInDelay.phase = .capture ∧
    idleInDelay.stim = level false (max idleInDelay.cfg.tSample idleInDelay.cfg.tHold + 1) ++ [] :=
  ⟨by constructor <;> decide, by constructor <;> decide, by decide, by decide, by decide⟩

/-- One idle cycle short of a reset gap. -/
theorem witness_CaptureStarts_not_yet : let ds := List.replicate 7 false
    let s := rcLine .waitReset 0b00#2 ds
    s.cfg.wf = true ∧ s.resetDone = true ∧ AtCode s .waitReset 0b00#2 ∧ s.stim = line ds ++ [] ∧
      ∀ n, 1 ≤ n → n ≤ ds.length → idleTail s.idleRun (ds.take n) < s.cfg.tReset := by
  refine ⟨by decide, by decide, by decide, by decide, ?_⟩
  intro n _ hn
  have : n ≤ 7 := hn
  interval_cases n <;> decide
/-- The reset gap exactly. -/
theorem witness_CaptureStarts : let ds := List.replicate 8 false
    let s := rcLine .waitReset 0b00#2 ds
    s.cfg.wf = true ∧ s.resetDone = true ∧ AtCode s .waitReset 0b00#2 ∧ s.stim = line ds ++ [] ∧ ds ≠ [] ∧
      (∀ n, 1 ≤ n → n < ds.length → idleTail s.idleRun (ds.take n) < s.cfg.tReset) ∧
      s.cfg.tReset ≤ idleTail s.idleRun ds := by
  refine ⟨by decide, by decide, by decide, by decide, by decide, ?_, by decide⟩
  intro n _ hn
  have : n < 8 := hn
  interval_cases n <;> decide
/-- Seven idle cycles after the reset cycle, D5.2. -/
theorem witness_NothingIsCaptured : let ds := List.replicate 7 false
    let s := { rcAt .capture 0b01#2 true with stim := { rst := true, din := true } :: (line ds ++ []) }
    s.cfg.wf = true ∧ s.stim = { rst := true, din := true } :: (line ds ++ []) ∧
      ∀ n, n ≤ ds.length → idleTail 0 (ds.take n) < s.cfg.tReset := by
  refine ⟨by decide, by decide, ?_⟩
  intro n hn
  have : n ≤ 7 := hn
  interval_cases n <;> decide
/-- A line that goes idle and active again before the sample. -/
theorem witness_CapturedBit : let ds := [false, false, true]
    let s := rcLine .capture 0b00#2 (true :: ds)
    s.cfg.wf = true ∧ s.resetDone = true ∧ AtCode s .capture 0b00#2 ∧ ds.length = s.cfg.tSample ∧
      s.stim = line (true :: ds) ++ [] ∧ ds.getLast? = some true := by decide
/-- The longest pulse that reads 0, and the last bit of a capture. -/
theorem witness_PulseIsCaptured_zero : let s := { rcAt .capture 0b00#2 true with cbit := 47, stim := level true 3 ++ level false 2 ++ [] }
    s.cfg.wf = true ∧ s.resetDone = true ∧ AtCode s .capture 0b00#2 ∧ s.cbit < capBits s.cfg ∧ 1 ≤ 3 ∧
      max 3 (s.cfg.tSample + 1) + 1 ≤ 3 + 2 ∧ s.stim = level true 3 ++ level false 2 ++ [] ∧
      s.cbit + 1 = capBits s.cfg := by decide
/-- The shortest pulse that reads 1, and the last bit but one. -/
theorem witness_PulseIsCaptured_one : let s := { rcAt .capture 0b00#2 true with cbit := 46, stim := level true 4 ++ level false 1 ++ [] }
    s.cfg.wf = true ∧ s.resetDone = true ∧ AtCode s .capture 0b00#2 ∧ s.cbit < capBits s.cfg ∧ 1 ≤ 4 ∧
      max 4 (s.cfg.tSample + 1) + 1 ≤ 4 + 1 ∧ s.stim = level true 4 ++ level false 1 ++ [] ∧
      s.cbit + 1 < capBits s.cfg := by decide

/-- The windows of the tightest profile respect R225, R226 and R229. -/
theorem tightWindow_capturable (b : Bool) : (tightProfile.window b).capturable tightest := by
  cases b <;> (unfold BitWindow.capturable; decide)

/-- The bit windows of some bytes in the tightest profile. -/
def tightWindows (bytes : List Byte) : List BitWindow := (bytes.flatMap byteBits).map tightProfile.window

/-- A state waiting for bit 0 of a capture, with the tightest timing and these inputs. -/
def tightAt (pixels : Nat) (ps : List Pins) : State :=
  { State.resetWith { tightest with pixels := pixels } with
    phase := .capture, stim := ps, cap := ⟨0x00#8, 0x00#8, 0x00#8, 0xFF#8, 0xFF#8, 0xFF#8⟩ }

theorem witness_FrameBytes : let bytes : List Byte := [0xA5#8, 0x00#8, 0xFF#8]
    let s := tightAt 1 ((tightWindows bytes).flatMap BitWindow.inputs ++ [])
    s.cfg.wf = true ∧ s.resetDone = true ∧ AtCode s .capture 0b00#2 ∧ s.cbit = 0 ∧ bytes.length = capBytes s.cfg ∧
      (tightWindows bytes).map BitWindow.bit = bytes.flatMap byteBits ∧ (∀ w ∈ tightWindows bytes, w.capturable s.cfg) ∧
      s.stim = (tightWindows bytes).flatMap BitWindow.inputs ++ [] := by
  refine ⟨by decide, by decide, by decide, by decide, by decide, by decide, ?_, rfl⟩
  intro w hw
  obtain ⟨b, -, rfl⟩ := List.mem_map.mp hw
  exact tightWindow_capturable b
theorem witness_CapturedFrame_two :
    let frame := expand tightProfile (.seq (.pix 0xA5#8 0x00#8 0xFF#8) (.seq (.pix 0x01#8 0x80#8 0x7F#8) (.rst 5)))
    let s := tightAt 2 (frame ++ [])
    s.cfg.wf = true ∧ s.resetDone = true ∧ s.cfg.resync = .anyWait ∧ AtCode s .capture 0b00#2 ∧ s.cbit = 0 ∧
      (tightProfile.window false).capturable s.cfg ∧ (tightProfile.window true).capturable s.cfg ∧
      s.cfg.tReset + 2 ≤ 5 ∧ s.cfg.pixels = 2 ∧ s.stim = frame ++ [] :=
  ⟨by decide, by decide, by decide, by decide, by decide, tightWindow_capturable false, tightWindow_capturable true,
    by decide, by decide, rfl⟩
theorem witness_CapturedFrame_one :
    let frame := expand tightProfile (.seq (.pix 0xA5#8 0x00#8 0xFF#8) (.rst 5))
    let s := tightAt 1 (frame ++ [])
    s.cfg.wf = true ∧ s.resetDone = true ∧ s.cfg.resync = .anyWait ∧ AtCode s .capture 0b00#2 ∧ s.cbit = 0 ∧
      (tightProfile.window false).capturable s.cfg ∧ (tightProfile.window true).capturable s.cfg ∧
      s.cfg.tReset + 2 ≤ 5 ∧ s.cfg.pixels = 1 ∧ SentinelHeld s ∧ s.stim = frame ++ [] :=
  ⟨by decide, by decide, by decide, by decide, by decide, tightWindow_capturable false, tightWindow_capturable true,
    by decide, by decide, fun _ _ => by decide, rfl⟩

/-- In `R_WAIT_HIGH`, a reset gap complete: one cycle to COMMIT. -/
def endOfFrame : State := { rcLine .relay 0b00#2 [false, false] with idleRun := 7, cbit := 48, budget := 2#8 }

theorem witness_CommitWritesThePixels : ∃ u t, endOfFrame.phase = .relay ∧ Runs 1 endOfFrame u ∧ u.phase = .commit ∧
    u.rst = false ∧ (∀ m v, m < 1 → Runs m endOfFrame v → v.rst = false ∧ v.phase = .relay) ∧ step u = .next t := by
  refine ⟨_, _, rfl, ⟨_, rfl, rfl⟩, rfl, rfl, ?_, rfl⟩
  intro m v hm hv
  obtain rfl : m = 0 := by omega
  obtain rfl : endOfFrame = v := hv
  decide
/-- The longest short pulse. -/
theorem witness_RelayedWaveform_short : let s := { rcAt .relay 0b00#2 true with stim := level true 2 ++ level false 1 ++ [] }
    s.cfg.wf = true ∧ s.resetDone = true ∧ AtCode s .relay 0b00#2 ∧ s.dout = false ∧ 1 ≤ 2 ∧
      2 = (if 2 ≤ s.cfg.tHold then s.cfg.tHold else 2) ∧ 2 + 1 ≤ 2 + 1 ∧ s.stim = level true 2 ++ level false 1 ++ [] := by decide
/-- The shortest long pulse, and the last bit of the last pixel. -/
theorem witness_RelayedWaveform_long :
    let s := { rcAt .relay 0b00#2 true with rbit := 23, budget := 1#8, stim := level true 3 ++ level false 1 ++ [] }
    s.cfg.wf = true ∧ s.resetDone = true ∧ AtCode s .relay 0b00#2 ∧ s.dout = false ∧ 1 ≤ 3 ∧
      3 = (if 3 ≤ s.cfg.tHold then s.cfg.tHold else 3) ∧ 3 + 1 ≤ 3 + 1 ∧ s.stim = level true 3 ++ level false 1 ++ [] ∧
      (s.rbit = 23 ∧ s.budget = 1#8) := by decide
theorem witness_RelayBudget_spent : StateInv lastBit ∧ InRange lastBit ∧ lastBit.phase = .relay ∧ lastBit.rst = false ∧
    ∃ t, step lastBit = .next t ∧ (lastBit.dout = true ∧ t.dout = false) :=
  ⟨lastBit_inv, lastBit_inRange, by decide, by decide, _, rfl, by decide, rfl⟩
theorem witness_RelayBudget_kept : StateInv endOfFrame ∧ InRange endOfFrame ∧ endOfFrame.phase = .relay ∧
    endOfFrame.rst = false ∧ ∃ t, step endOfFrame = .next t ∧ ¬ (endOfFrame.dout = true ∧ t.dout = false) :=
  ⟨by constructor <;> decide, by constructor <;> decide, by decide, by decide, _, rfl, by decide⟩

/-- The shortest sufficient gap, met in the sampling offset of a capture's last bit. -/
theorem witness_ResetGap :
    let gap := expand tightProfile (.rst 10)
    let s := { idleInDelay with stim := gap ++ [] }
    StateInv s ∧ InRange s ∧ s.resetDone = true ∧ s.cfg.resync = .anyWait ∧ s.cfg.tReset + 2 ≤ 10 ∧ s.stim = gap ++ [] :=
  ⟨by constructor <;> decide, by constructor <;> decide, by decide, by decide, by decide, rfl⟩
theorem witness_StuckActive : ∀ c ∈ [(Phase.waitReset, 0b00#2), (.capture, 0b10#2), (.relay, 0b10#2)],
    let s := { rcAt c.1 c.2 true with stim := level true 20 ++ [] }
    s.cfg.wf = true ∧ s.resetDone = true ∧ s.stim = level true 20 ++ [] ∧
      (AtCode s .waitReset 0b00#2 ∨ AtCode s .capture 0b10#2 ∨ AtCode s .relay 0b10#2) := by decide
theorem witness_StuckIdle : ∀ c ∈ [(Phase.capture, 0b00#2), (.relay, 0b00#2)],
    let s := noResync { rcAt c.1 c.2 false with stim := level false 20 ++ [] }
    s.cfg.wf = true ∧ s.resetDone = true ∧ s.stim = level false 20 ++ [] ∧ s.cfg.resync = .waitResetOnly ∧
      (AtCode s .capture 0b00#2 ∨ AtCode s .relay 0b00#2) := by decide
/-- Two states that differ in every field whose reset value the spec leaves open. -/
theorem witness_UnspecifiedResetValues :
    let s := rcAt .waitReset 0b00#2 false
    let t := { s with dcnt := 1, cbit := 2, shreg := 0x03#8, cap := ⟨4#8, 5#8, 6#8, 7#8, 8#8, 9#8⟩, hcnt := 1, rbit := 11, budget := 12#8 }
    (t.cfg = s.cfg ∧ t.resetDone = s.resetDone ∧ AtCode s .waitReset 0b00#2 ∧ AtCode t .waitReset 0b00#2 ∧
      t.idleRun = s.idleRun ∧ t.outputs = s.outputs ∧ t.stim = s.stim ∧ t.cycle = s.cycle) ∧ ∃ s', Runs 1 s s' :=
  ⟨by decide, _, _, rfl, rfl⟩

end Sys2Proof.Tests
end

section
/-! PROOF. When a step is refused, and for which configurations (00_scope.md §3). -/

namespace Sys2Proof.Machine

/-- `PIXELS ∈ {1, 2}` (R6), in numbers. -/
theorem pixelsOk_iff (c : Config) : c.pixelsOk = true ↔ c.pixels = 1 ∨ c.pixels = 2 := by
  simp [Config.pixelsOk]

/-- The range of `RELAY_BUDGET` (R9, R10), in numbers. -/
theorem relayBudgetOk_iff (c : Config) : c.relayBudgetOk = true ↔ 1 ≤ c.relayBudget ∧ c.relayBudget ≤ 2 ^ 8 - 1 := by
  simp [Config.relayBudgetOk]

/-- The constraints on the timing parameters (R11), in numbers. -/
theorem timingOk_iff (c : Config) :
    c.timingOk = true ↔ 1 ≤ c.tSample ∧ 1 ≤ c.tHold ∧ max c.tSample c.tHold + 2 ≤ c.tReset := by
  simp [Config.timingOk, and_assoc]

/-- The check of a configuration answers by its first failing constraint, and never with a reason of another kind. -/
theorem configRefusal_eq_some_iff (c : Config) (r : Refusal) :
    configRefusal c = some r ↔
      (r = .pixelsNotOneOrTwo ∧ ¬ c.pixelsOk = true) ∨
      (r = .relayBudgetOutOfRange ∧ c.pixelsOk = true ∧ ¬ c.relayBudgetOk = true) ∨
      (r = .timingOutOfRange ∧ c.pixelsOk = true ∧ c.relayBudgetOk = true ∧ ¬ c.timingOk = true) := by
  unfold configRefusal
  by_cases hp : c.pixelsOk = true
  · by_cases hb : c.relayBudgetOk = true
    · by_cases ht : c.timingOk = true
      · simp [hp, hb, ht]
      · simp [hp, hb, ht, eq_comm (a := r)]
    · simp [hp, hb, eq_comm (a := r)]
  · simp [hp, eq_comm (a := r)]

/-- Every row has a meaning, and it always answers a next state. -/
theorem exec_eq_next (i : Instr) (s : State) : ∃ t, exec i s = .next t := by
  cases i <;> exact ⟨_, rfl⟩

/-- A step is refused for its configuration, or because the block has had no reset cycle (R222), and for nothing else. -/
theorem step_refused_iff (s : State) (r : Refusal) :
    step s = .refused r ↔
      configRefusal s.cfg = some r ∨
        (configRefusal s.cfg = none ∧ s.rst = false ∧ s.resetDone = false ∧ r = .notReset) := by
  unfold step
  cases configRefusal s.cfg with
  | some q => simp
  | none =>
    cases s.rst with
    | true => simp
    | false =>
      cases s.resetDone with
      | false => simp [eq_comm (a := r)]
      | true =>
        cases s.decoded with
        | row i =>
          obtain ⟨t, ht⟩ := exec_eq_next i s
          simp [ht]
        | reservedCode => simp
        | cbitOutOfRange => simp

/-- The refusals other than that of an unreset block are the configuration's. -/
theorem step_refused_iff_configRefusal (s : State) {r : Refusal} (h : r ≠ .notReset) :
    step s = .refused r ↔ configRefusal s.cfg = some r := by
  simp [step_refused_iff, h]

end Sys2Proof.Machine

open Sys2Proof Sys2Proof.Machine

/-- Settles O28: each refusal is the configuration's, and it names the first constraint that fails. -/
theorem illegalConfigurationsAreRefused : Obligations.IllegalConfigurationsAreRefused := by
  intro s
  refine ⟨?pixels, ?budget, ?timing⟩
  case pixels =>
    rw [step_refused_iff_configRefusal s (by decide), configRefusal_eq_some_iff, pixelsOk_iff]
    simp
  case budget =>
    rw [step_refused_iff_configRefusal s (by decide), configRefusal_eq_some_iff, pixelsOk_iff, relayBudgetOk_iff]
    simp
  case timing =>
    rw [step_refused_iff_configRefusal s (by decide), configRefusal_eq_some_iff, pixelsOk_iff, relayBudgetOk_iff,
      timingOk_iff]
    simp

end

section
/-! PROOF. A step by the row that applies: what the row writes, and what the end of the cycle adds (R79, R101). -/

namespace Sys2Proof.Machine

/-- The start state with a row's writes, before the end of the cycle counts the idle run and takes the next input. -/
def rowWrites (i : Instr) (s : State) : State :=
  match i with
  | .wrActive | .wrCount | .cwhIdle | .cwlHold | .rwhIdle | .rfHold => s
  | .wrExit | .cwhResync => s.capInit.goto .capture 0b00#2
  | .cwhStart => { s with dcnt := dcntLoad s.cfg, phase := .capture, sub := 0b01#2 }
  | .cdCount => { s with dcnt := s.dcnt - 1 }
  | .cdSample =>
    { s with
      cap := if s.byteDone then channelSet s.cap (byteIndex s.cbit) (dutyValue (assembleBit s.shreg s.din)) else s.cap
      shreg := assembleBit s.shreg s.din
      cbit := s.cbit + 1
      phase := .capture
      sub := 0b10#2 }
  | .cwlNext => s.goto .capture 0b00#2
  | .cwlDone => s.relayInit.goto .relay 0b00#2
  | .rwhEnd => s.goto .commit 0b00#2
  | .rwhStart => { s with dout := true, hcnt := hcntLoad s.cfg, phase := .relay, sub := 0b01#2 }
  | .rhCount => { s with hcnt := s.hcnt - 1 }
  | .rhShort | .rfFall => s.relayDone
  | .rhLong => s.goto .relay 0b10#2
  | .commit => { s with pwm := s.cap, phase := .waitReset, sub := 0b00#2 }

/-- The meaning of every row is its writes and the end of the cycle. -/
theorem exec_eq_endCycle_rowWrites (i : Instr) (s : State) : exec i s = .next (s.endCycle (rowWrites i s)) := by
  cases i
  case cdSample => exact exec_cdSample s
  all_goals rfl

/-- If a step answers a next state, the configuration is legal, and either the cycle is a reset cycle, or the block has been
reset and makes the writes of a row whose pattern and guard hold. -/
theorem step_rowWrites_cases {s t : State} (h : step s = .next t) :
    s.cfg.wf = true ∧
      ((s.rst = true ∧ t = s.resetCycle) ∨
        (s.rst = false ∧ s.resetDone = true ∧ ∃ i, RowApplies i s ∧ t = s.endCycle (rowWrites i s))) := by
  obtain ⟨hw, ⟨hr, ht⟩ | ⟨hr, hd, i, hi, he⟩⟩ := step_cases h
  · exact ⟨hw, .inl ⟨hr, ht⟩⟩
  · rw [exec_eq_endCycle_rowWrites] at he
    injection he with he
    exact ⟨hw, .inr ⟨hr, hd, i, (decoded_row_iff s i).mp hi, he.symm⟩⟩

/-- In a cycle with `rst = 0`, a next state is the writes of a row whose pattern and guard hold, and the end of the cycle. -/
theorem step_rowWrites_of_not_rst {s t : State} (hr : s.rst = false) (h : step s = .next t) :
    ∃ i, RowApplies i s ∧ t = s.endCycle (rowWrites i s) := by
  obtain ⟨-, ⟨hr', -⟩ | ⟨-, -, hrow⟩⟩ := step_rowWrites_cases h
  · rw [hr] at hr'
    cases hr'
  · exact hrow

/-- A running block makes the writes of the row whose pattern and guard hold. -/
theorem step_of_rowApplies {s : State} {i : Instr} (hr : Running s) (hi : RowApplies i s) :
    step s = .next (s.endCycle (rowWrites i s)) :=
  (step_of_decoded hr (decoded_of_rowApplies hi)).trans (exec_eq_endCycle_rowWrites i s)

/-- A reset cycle under a legal configuration (R203, R220). -/
theorem step_of_rst {s : State} (hw : s.cfg.wf = true) (hr : s.rst = true) : step s = .next s.resetCycle := by
  simp [step, (configRefusal_eq_none_iff _).mpr hw, hr]

/-! ### Which rows write a field -/

@[simp] theorem rowWrites_cfg (i : Instr) (s : State) : (rowWrites i s).cfg = s.cfg := by
  cases i <;> simp [rowWrites]

@[simp] theorem rowWrites_resetDone (i : Instr) (s : State) : (rowWrites i s).resetDone = s.resetDone := by
  cases i <;> simp [rowWrites]

/-- `dcnt` is loaded by CWH_START and counted down by CD_COUNT (R23). -/
theorem rowWrites_dcnt_cases (i : Instr) (s : State) :
    (rowWrites i s).dcnt = s.dcnt ∨ (i = .cwhStart ∧ (rowWrites i s).dcnt = dcntLoad s.cfg) ∨
      (i = .cdCount ∧ (rowWrites i s).dcnt = s.dcnt - 1) := by
  cases i <;> simp [rowWrites]

/-- `cbit` is cleared by CAPINIT and counted by CD_SAMPLE (R24). -/
theorem rowWrites_cbit_cases (i : Instr) (s : State) :
    (rowWrites i s).cbit = s.cbit ∨ (rowWrites i s).cbit = 0 ∨ (i = .cdSample ∧ (rowWrites i s).cbit = s.cbit + 1) := by
  cases i <;> simp [rowWrites]

/-- `cap` is written by CAPINIT and by the byte store in CD_SAMPLE (R26). -/
theorem rowWrites_cap_cases (i : Instr) (s : State) :
    (rowWrites i s).cap = s.cap ∨
      ((i = .wrExit ∨ i = .cwhResync) ∧ rowWrites i s = s.capInit.goto .capture 0b00#2) ∨
      (i = .cdSample ∧ s.byteDone = true) := by
  cases i
  case cdSample => cases h : s.byteDone <;> simp [rowWrites, h]
  all_goals simp [rowWrites]

/-- `hcnt` is loaded by RWH_START and counted down by RH_COUNT (R27). -/
theorem rowWrites_hcnt_cases (i : Instr) (s : State) :
    (rowWrites i s).hcnt = s.hcnt ∨ (i = .rwhStart ∧ (rowWrites i s).hcnt = hcntLoad s.cfg) ∨
      (i = .rhCount ∧ (rowWrites i s).hcnt = s.hcnt - 1) := by
  cases i <;> simp [rowWrites]

/-- `rbit` is cleared by RELAYINIT and stepped by RDONE (R28). -/
theorem rowWrites_rbit_cases (i : Instr) (s : State) :
    (rowWrites i s).rbit = s.rbit ∨ (rowWrites i s).rbit = 0 ∨ (rowWrites i s).rbit = s.relayDone.rbit := by
  cases i <;> simp [rowWrites]

end Sys2Proof.Machine

end

section
/-! PROOF. No step writes the configuration (10_state.md R32). -/

open Sys2Proof Sys2Proof.Machine

/-- Settles O32: neither a reset cycle nor a row writes `cfg`. -/
theorem configurationNeverChanges : Obligations.ConfigurationNeverChanges := by
  intro s t h
  obtain ⟨-, ⟨-, rfl⟩ | ⟨-, -, i, -, rfl⟩⟩ := step_rowWrites_cases h
  · exact resetCycle_cfg s
  · rw [endCycle_cfg, rowWrites_cfg]

end

section
/-! PROOF. The invariant of R35, by the phase of the state register. -/

namespace Sys2Proof.Machine

/-- What (a) to (e) of R35 say, collected for each phase. -/
def PhaseInv (s : State) : Prop :=
  match s.phase with
  | .waitReset => s.sub = 0b00#2 ∧ s.dout = false
  | .capture => s.sub ≠ 0b11#2 ∧ s.dout = false ∧ s.cbit ≤ capBits s.cfg ∧ (s.sub ≠ 0b10#2 → s.cbit < capBits s.cfg)
  | .relay => s.sub ≠ 0b11#2 ∧ (s.dout = true ↔ s.sub ≠ 0b00#2) ∧ 1 ≤ s.budget.toNat ∧ s.budget.toNat ≤ s.cfg.relayBudget
  | .commit => s.sub = 0b00#2 ∧ s.dout = false

theorem phaseInv_capture {s : State} (hp : s.phase = .capture) :
    PhaseInv s ↔
      s.sub ≠ 0b11#2 ∧ s.dout = false ∧ s.cbit ≤ capBits s.cfg ∧ (s.sub ≠ 0b10#2 → s.cbit < capBits s.cfg) := by
  simp only [PhaseInv, hp]

theorem phaseInv_relay {s : State} (hp : s.phase = .relay) :
    PhaseInv s ↔
      s.sub ≠ 0b11#2 ∧ (s.dout = true ↔ s.sub ≠ 0b00#2) ∧ 1 ≤ s.budget.toNat ∧ s.budget.toNat ≤ s.cfg.relayBudget := by
  simp only [PhaseInv, hp]

/-- The codes of RELAY in which the output is driven are the legal ones but `R_WAIT_HIGH` (R21, R35 (b)). -/
theorem subCode_ne_zero_iff {c : SubCode} (h : c ≠ 0b11#2) : c ≠ 0b00#2 ↔ c = 0b01#2 ∨ c = 0b10#2 := by
  revert c
  decide

/-- (a) to (e) of R35, phase by phase. -/
theorem phaseInv_of_stateInv {s : State} (h : StateInv s) : PhaseInv s := by
  obtain ⟨-, hlegal, hdout, hle, hfull, hbudget, -, -⟩ := h
  cases hp : s.phase <;> simp only [PhaseInv, hp] <;> simp only [hp, legalCode] at hlegal
  case waitReset | commit => exact ⟨by simpa using hlegal, by simpa [hp] using hdout⟩
  case capture =>
    refine ⟨by simpa using hlegal, by simpa [hp] using hdout, hle hp, fun hn => ?_⟩
    exact Nat.lt_of_le_of_ne (hle hp) fun he => hn (hfull hp he)
  case relay =>
    have hc : s.sub ≠ 0b11#2 := by simpa using hlegal
    exact ⟨hc, by simpa [hp, subCode_ne_zero_iff hc] using hdout, hbudget hp⟩

/-- The invariant of R35 from its phase-by-phase part, the constraints on the configuration and (f). -/
theorem stateInv_of_phaseInv {s : State} (hw : s.cfg.wf = true) (hidle : s.idleRun ≤ s.cfg.tReset) (h : PhaseInv s) :
    StateInv s := by
  cases hp : s.phase <;> simp only [PhaseInv, hp] at h
  case waitReset | commit =>
    obtain ⟨hc, hd⟩ := h
    constructor <;> simp [hw, hidle, hp, hc, hd, legalCode]
  case capture =>
    obtain ⟨hc, hd, hle, hlt⟩ := h
    exact
      { config := hw
        legal := by simp [hp, hc, legalCode]
        doutIff := by simp [hp, hd]
        cbitLe := fun _ => hle
        cbitFull := fun _ he => by_contra fun hn => (hlt hn).ne he
        budgetRange := by simp [hp]
        cbitBelow := fun _ hsub => hlt (by obtain h | h := hsub <;> simp [h])
        idleLe := hidle }
  case relay =>
    obtain ⟨hc, hd, hb⟩ := h
    exact
      { config := hw
        legal := by simp [hp, hc, legalCode]
        doutIff := by simp [hp, hd, ← subCode_ne_zero_iff hc]
        cbitLe := by simp [hp]
        cbitFull := by simp [hp]
        budgetRange := fun _ => hb
        cbitBelow := by simp [hp]
        idleLe := hidle }

/-- The idle counter never passes `T_RESET` (R101). -/
theorem idleRunNext_le (s : State) : s.idleRunNext ≤ s.cfg.tReset := by
  unfold State.idleRunNext
  split
  · exact Nat.zero_le _
  · exact Nat.min_le_right _ _

/-- The end of a cycle keeps the phase's invariant: it touches neither the state register nor a field the invariant reads. -/
theorem phaseInv_endCycle {s w : State} : PhaseInv (s.endCycle w) ↔ PhaseInv w := Iff.rfl

/-- (b) of R35, its consequence outside RELAY: the output is idle. -/
theorem dout_of_phaseInv {s : State} (h : PhaseInv s) (hp : s.phase ≠ .relay) : s.dout = false := by
  cases hs : s.phase <;> simp only [PhaseInv, hs] at h
  case waitReset | commit =>
    obtain ⟨-, hdout⟩ := h
    exact hdout
  case capture =>
    obtain ⟨-, hdout, -⟩ := h
    exact hdout
  case relay => exact absurd hs hp

/-- Under a legal configuration a capture has bits (R6, R7). -/
theorem capBits_pos {c : Config} (hw : c.wf = true) : 0 < capBits c := by
  obtain ⟨hpix, -⟩ := (config_wf_iff c).mp hw
  simp only [capBits]
  omega

/-- RELAYINIT loads the whole budget: under a legal configuration it fits the register (R9, R10). -/
theorem budgetLoad_toNat {c : Config} (hw : c.wf = true) : (budgetLoad c).toNat = c.relayBudget := by
  obtain ⟨-, hb, -⟩ := (config_wf_iff c).mp hw
  simp only [budgetLoad, BitVec.toNat_ofNat]
  omega

/-- RDONE leaves an idle output and goes on in RELAY with a budget in its range, or to COMMIT with the budget spent (R159). -/
theorem phaseInv_relayDone {s : State} (hb : 1 ≤ s.budget.toNat ∧ s.budget.toNat ≤ s.cfg.relayBudget) :
    PhaseInv s.relayDone := by
  obtain ⟨-, h⟩ | ⟨-, hne, h⟩ | ⟨-, -, h⟩ := relayDone_cases s
  · simpa [h, PhaseInv] using hb
  · have hne : s.budget.toNat ≠ 1 := fun he => hne (BitVec.eq_of_toNat_eq he)
    have hsub : (s.budget - 1#8).toNat = s.budget.toNat - 1 := by bv_omega
    rw [h]
    exact ⟨by simp, by simp, by simp only [hsub]; omega, by simp only [hsub]; omega⟩
  · simp [h, PhaseInv]

/-- The writes of every row that applies keep (a) to (e) of R35. -/
theorem rowWrites_phaseInv {i : Instr} {s : State} (hw : s.cfg.wf = true) (hi : RowApplies i s) (h : PhaseInv s) :
    PhaseInv (rowWrites i s) := by
  cases i <;> simp only [RowApplies, AtCode] at hi
  case wrActive | wrCount | cwhIdle | cwlHold | rwhIdle | rfHold | cdCount | rhCount => exact h
  case wrExit | cwhResync =>
    obtain ⟨⟨hp, -⟩, -⟩ := hi
    have hcap := capBits_pos hw
    have hdout := dout_of_phaseInv h (by simp [hp])
    simp [PhaseInv, rowWrites, hdout, hcap]
  case cwhStart =>
    obtain ⟨⟨hp, hc⟩, -⟩ := hi
    simpa [PhaseInv, rowWrites, hp, hc] using h
  case cdSample =>
    obtain ⟨⟨hp, hc⟩, -⟩ := hi
    obtain ⟨-, hdout, -, hlt⟩ := (phaseInv_capture hp).mp h
    have hlt : s.cbit < capBits s.cfg := hlt (by simp [hc])
    simpa [PhaseInv, rowWrites, hdout] using hlt
  case cwlNext =>
    obtain ⟨⟨hp, -⟩, -, hlt⟩ := hi
    have hdout := dout_of_phaseInv h (by simp [hp])
    simp [PhaseInv, rowWrites, hdout, hlt, hlt.le]
  case cwlDone =>
    obtain ⟨⟨hp, -⟩, -⟩ := hi
    have hdout := dout_of_phaseInv h (by simp [hp])
    obtain ⟨-, ⟨hb, -⟩, -⟩ := (config_wf_iff s.cfg).mp hw
    simp [PhaseInv, rowWrites, hdout, budgetLoad_toNat hw, hb]
  case rwhEnd =>
    obtain ⟨⟨hp, hc⟩, -⟩ := hi
    obtain ⟨-, hdout, -⟩ := (phaseInv_relay hp).mp h
    simpa [PhaseInv, rowWrites, hc] using hdout
  case rwhStart =>
    obtain ⟨⟨hp, -⟩, -⟩ := hi
    obtain ⟨-, -, hb⟩ := (phaseInv_relay hp).mp h
    simp [PhaseInv, rowWrites, hb]
  case rhLong =>
    obtain ⟨⟨hp, hc⟩, -⟩ := hi
    obtain ⟨-, hdout, hb⟩ := (phaseInv_relay hp).mp h
    simpa [PhaseInv, rowWrites, hc, hb] using hdout
  case commit =>
    obtain ⟨hp, -⟩ := hi
    simp [PhaseInv, rowWrites, dout_of_phaseInv h (by simp [hp])]
  case rhShort | rfFall =>
    obtain ⟨⟨hp, -⟩, -⟩ := hi
    obtain ⟨-, -, hb⟩ := (phaseInv_relay hp).mp h
    exact phaseInv_relayDone hb

/-- A reset cycle leads to WAIT_RESET with the output idle, so (a) to (f) hold after it whatever the state was (R220). -/
theorem stateInv_resetCycle {s : State} (hw : s.cfg.wf = true) : StateInv s.resetCycle :=
  stateInv_of_phaseInv hw (Nat.zero_le _) ⟨rfl, rfl⟩

/-- Every step keeps the invariant of R35. -/
theorem step_stateInv {s t : State} (hs : StateInv s) (h : step s = .next t) : StateInv t := by
  obtain ⟨hw, ⟨-, rfl⟩ | ⟨-, -, i, hi, rfl⟩⟩ := step_rowWrites_cases h
  · exact stateInv_resetCycle hw
  · refine stateInv_of_phaseInv (by simpa using hw) (by simpa using idleRunNext_le s) ?_
    exact phaseInv_endCycle.mpr (rowWrites_phaseInv hw hi (phaseInv_of_stateInv hs))

end Sys2Proof.Machine

open Sys2Proof Sys2Proof.Machine

/-- Settles O31: the reset state and the state after a reset cycle are in WAIT_RESET with the output idle. -/
theorem invariantsHoldAfterReset : Obligations.InvariantsHoldAfterReset := by
  refine ⟨fun c hw => ⟨?_, fun _ hp => absurd rfl hp⟩, fun s t hr h => ?_⟩
  · exact stateInv_of_phaseInv hw (Nat.zero_le _) ⟨rfl, rfl⟩
  · obtain ⟨hw, ⟨-, rfl⟩ | ⟨hr', -⟩⟩ := step_rowWrites_cases h
    · exact ⟨stateInv_resetCycle hw, fun _ hp => absurd rfl hp⟩
    · rw [hr] at hr'
      cases hr'

/-- Settles O33: a reset cycle establishes the invariant, and every row that applies keeps it. -/
theorem everyStepKeepsTheInvariant : Obligations.EveryStepKeepsTheInvariant :=
  fun _ _ => step_stateInv

end

section
/-! PROOF. The ranges of the counters (10_state.md R20, R22 to R28). -/

namespace Sys2Proof.Machine

/-- The reset state's counters, zero by log 2, lie in the ranges of R20. -/
theorem inRange_resetWith {c : Config} (hw : c.wf = true) : InRange (State.resetWith c) := by
  obtain ⟨-, -, hsample, hhold, -⟩ := (config_wf_iff c).mp hw
  constructor
  case idleRun => exact Nat.zero_le _
  case dcnt => exact hsample
  case cbit => exact Nat.zero_le _
  case hcnt => exact hhold
  case rbit => exact Nat.zero_le _

/-- RDONE counts the bit index inside a pixel's 24 bits (R28, R159). -/
theorem relayDone_rbit_le {s : State} (h : s.rbit ≤ 23) : s.relayDone.rbit ≤ 23 := by
  obtain ⟨hne, he⟩ | ⟨-, -, he⟩ | ⟨-, -, he⟩ := relayDone_cases s <;> simp only [he]
  case inl => omega
  all_goals exact Nat.zero_le _

/-- The sampling row meets the invariant's `cbit < CAP_BITS`, so it cannot count past it (R24, R35 (e)). -/
theorem cbit_lt_of_cdSample {s : State} (hs : StateInv s) (hi : RowApplies .cdSample s) : s.cbit < capBits s.cfg := by
  obtain ⟨⟨hp, hc⟩, -⟩ := hi
  exact hs.cbitBelow hp (.inr hc)

/-- Every row that applies keeps the counters in their ranges. -/
theorem endCycle_rowWrites_inRange {i : Instr} {s : State} (hs : StateInv s) (hr : InRange s) (hi : RowApplies i s) :
    InRange (s.endCycle (rowWrites i s)) := by
  obtain ⟨-, -, hsample, hhold, -⟩ := (config_wf_iff s.cfg).mp hs.config
  obtain ⟨-, hdcnt, hcbit, hhcnt, hrbit⟩ := hr
  constructor <;> simp only [endCycle_idleRun, endCycle_dcnt, endCycle_cbit, endCycle_hcnt, endCycle_rbit,
    endCycle_cfg, rowWrites_cfg]
  case idleRun => exact idleRunNext_le s
  case dcnt =>
    obtain h | ⟨-, h⟩ | ⟨-, h⟩ := rowWrites_dcnt_cases i s <;> simp only [h, dcntLoad] <;> omega
  case cbit =>
    obtain h | h | ⟨rfl, h⟩ := rowWrites_cbit_cases i s <;> rw [h]
    · exact hcbit
    · exact Nat.zero_le _
    · exact cbit_lt_of_cdSample hs hi
  case hcnt =>
    obtain h | ⟨-, h⟩ | ⟨-, h⟩ := rowWrites_hcnt_cases i s <;> simp only [h, hcntLoad] <;> omega
  case rbit =>
    obtain h | h | h := rowWrites_rbit_cases i s <;> rw [h]
    · exact hrbit
    · exact Nat.zero_le _
    · exact relayDone_rbit_le hrbit

/-- A reset cycle clears the idle counter and keeps the other counters (R220). -/
theorem inRange_resetCycle {s : State} (hr : InRange s) : InRange s.resetCycle :=
  { hr with idleRun := Nat.zero_le _ }

end Sys2Proof.Machine

open Sys2Proof Sys2Proof.Machine

/-- Settles O30: the chosen values are zeros, and the lower ends of R20's ranges are zero. -/
theorem chosenResetValuesAreLegal : Obligations.ChosenResetValuesAreLegal :=
  ⟨rfl, by decide, fun _ hw => ⟨rfl, inRange_resetWith hw⟩⟩

/-- Settles O34: a reset cycle clears or keeps the counters, and every row that applies keeps them in range. -/
theorem everyStepKeepsTheCountersInRange : Obligations.EveryStepKeepsTheCountersInRange := by
  intro s t hs hr h
  obtain ⟨-, ⟨-, rfl⟩ | ⟨-, -, i, hi, rfl⟩⟩ := step_rowWrites_cases h
  · exact inRange_resetCycle hr
  · exact endCycle_rowWrites_inRange hs hr hi

end

section
/-! PROOF. The order of the phases, and where the captured pixels change (10_state.md R21, R26). -/

namespace Sys2Proof.Machine

/-- RDONE stays in RELAY or ends it (R159). -/
theorem relayDone_phase_cases (s : State) : s.relayDone.phase = .relay ∨ s.relayDone.phase = .commit := by
  obtain ⟨-, h⟩ | ⟨-, -, h⟩ | ⟨-, -, h⟩ := relayDone_cases s <;> simp [h]

end Sys2Proof.Machine

open Sys2Proof Sys2Proof.Machine

/-- Settles O38: each row's pattern fixes the phase it starts in, and its writes the phase it leads to. -/
theorem phasesFollowTheirOrder : Obligations.PhasesFollowTheirOrder := by
  intro s t hr h
  obtain ⟨i, hi, rfl⟩ := step_rowWrites_of_not_rst hr h
  cases i <;> simp only [RowApplies, AtCode] at hi
  case commit =>
    obtain ⟨hp, -⟩ := hi
    simp [hp, rowWrites]
  case rhShort | rfFall =>
    obtain ⟨⟨hp, -⟩, -⟩ := hi
    simpa [hp, rowWrites] using relayDone_phase_cases s
  all_goals
    obtain ⟨⟨hp, -⟩, -⟩ := hi
    simp [hp, rowWrites]

/-- Settles O42: outside CAPINIT and the eighth sample of a byte no cycle writes `cap`, and CAPINIT only under `PIXELS = 1`. -/
theorem capturedPixelsChangeOnlyInACapture : Obligations.CapturedPixelsChangeOnlyInACapture := by
  intro s t h hne
  obtain ⟨-, ⟨-, rfl⟩ | ⟨hr, -, i, hi, rfl⟩⟩ := step_rowWrites_cases h
  · exact absurd (resetCycle_cap s) hne
  refine ⟨hr, ?_⟩
  obtain hcap | ⟨hrow, hw⟩ | ⟨rfl, hbyte⟩ := rowWrites_cap_cases i s
  · exact absurd hcap hne
  · rw [hw] at hne ⊢
    have hpix : s.cfg.pixels = 1 := by
      by_contra hn
      simp [hn] at hne
    refine .inl ⟨hpix, by simp [hpix, dutyOff], ⟨rfl, rfl⟩, ?_⟩
    obtain rfl | rfl := hrow
    · obtain ⟨hc, -, hseen⟩ := hi
      exact .inl ⟨hc, hseen⟩
    · obtain ⟨hc, -, hseen⟩ := hi
      exact .inr ⟨hc, hseen⟩
  · obtain ⟨hc, hz⟩ := hi
    exact .inr ⟨hc, hz, by simpa [State.byteDone] using hbyte⟩

end

section
/-! PROOF. What a reset leaves unspecified is never observed (10_state.md R34): two states that agree in the fields a rule
has written since WAIT_RESET take the same row and agree again. -/

namespace Sys2Proof.Machine

/-! ### Files that agree in an entry -/

/-- A file is its six entries. -/
theorem channels_ext {c d : Channels} (h : ∀ k, k < 6 → channelGet? d k = channelGet? c k) : d = c := by
  obtain ⟨c0, c1, c2, c3, c4, c5⟩ := c
  obtain ⟨d0, d1, d2, d3, d4, d5⟩ := d
  have h0 := h 0 (by omega)
  have h1 := h 1 (by omega)
  have h2 := h 2 (by omega)
  have h3 := h 3 (by omega)
  have h4 := h 4 (by omega)
  have h5 := h 5 (by omega)
  clear h
  simp_all [channelGet?, channelList]

/-- There is no entry above 5. -/
theorem channelGet?_of_ge (c : Channels) {k : Nat} (h : 6 ≤ k) : channelGet? c k = none := by
  simp [channelGet?, channelList, h]

/-- Files agree in an entry after the same write if they agreed in it before, or if it is the entry written. -/
theorem channelGet?_channelSet_congr {c d : Channels} {j : Nat} (k : Nat) (v : Byte)
    (h : j ≠ k → channelGet? d j = channelGet? c j) :
    channelGet? (channelSet d k v) j = channelGet? (channelSet c k v) j := by
  simp only [channelGet?_channelSet]
  by_cases hj : j = k
  · by_cases hk : k < 6
    · simp [hj, hk]
    · simp [hj, hk, channelGet?_of_ge _ (Nat.le_of_not_lt hk)]
  · simp [hj, h hj]

/-! ### The relation -/

/-- The states agree in every field the spec gives a reset value (R221), in the configuration and in the inputs to come. -/
structure SameSpecified (s t : State) : Prop where
  cfg : t.cfg = s.cfg
  resetDone : t.resetDone = s.resetDone
  phase : t.phase = s.phase
  sub : t.sub = s.sub
  idleRun : t.idleRun = s.idleRun
  dout : t.dout = s.dout
  pwm : t.pwm = s.pwm
  stim : t.stim = s.stim
  cycle : t.cycle = s.cycle

/-- The files agree in the entries that a capture has written at this bit count: the bytes it has completed, and the entries
CAPINIT fills, which are all from `CAP_BYTES` on. -/
def SameCaptured (s t : State) : Prop :=
  ∀ k, k < s.cbit / 8 ∨ capBytes s.cfg ≤ k → channelGet? t.cap k = channelGet? s.cap k

/-- The states agree in the fields R221 leaves unspecified as far as the phase's rules have written them since WAIT_RESET. -/
def SameWritten (s t : State) : Prop :=
  match s.phase with
  | .waitReset => True
  | .capture => t.cbit = s.cbit ∧ t.shreg = s.shreg ∧ (s.sub = 0b01#2 → t.dcnt = s.dcnt) ∧ SameCaptured s t
  | .relay => t.rbit = s.rbit ∧ t.budget = s.budget ∧ t.cap = s.cap ∧ (s.sub = 0b01#2 → t.hcnt = s.hcnt)
  | .commit => t.cap = s.cap

/-- The relation that matched steps keep: the states agree wherever a rule may read or the environment may look. -/
structure Indistinguishable (s t : State) : Prop where
  specified : SameSpecified s t
  written : SameWritten s t

/-! The relation of two states, phase by phase. -/

theorem sameWritten_capture {s t : State} (hp : s.phase = .capture) :
    SameWritten s t ↔
      t.cbit = s.cbit ∧ t.shreg = s.shreg ∧ (s.sub = 0b01#2 → t.dcnt = s.dcnt) ∧ SameCaptured s t := by
  simp [SameWritten, hp]

theorem sameWritten_relay {s t : State} (hp : s.phase = .relay) :
    SameWritten s t ↔
      t.rbit = s.rbit ∧ t.budget = s.budget ∧ t.cap = s.cap ∧ (s.sub = 0b01#2 → t.hcnt = s.hcnt) := by
  simp [SameWritten, hp]

theorem sameWritten_commit {s t : State} (hp : s.phase = .commit) : SameWritten s t ↔ t.cap = s.cap := by
  simp [SameWritten, hp]

/-! Two such states see the same inputs and count the same idle run (log 3, R101). -/

theorem SameSpecified.pins {s t : State} (h : SameSpecified s t) : t.pins = s.pins := by
  simp [State.pins, h.stim, h.cycle]

theorem SameSpecified.din {s t : State} (h : SameSpecified s t) : t.din = s.din := by
  simp [State.din, h.pins]

theorem SameSpecified.rst {s t : State} (h : SameSpecified s t) : t.rst = s.rst := by
  simp [State.rst, h.pins]

theorem SameSpecified.idleRunNext {s t : State} (h : SameSpecified s t) : t.idleRunNext = s.idleRunNext := by
  simp [State.idleRunNext, h.din, h.idleRun, h.cfg]

/-- CAPINIT writes all that the start of a capture may read (R120). -/
theorem sameCaptured_capInit {s t : State} (hw : s.cfg.wf = true) (h : SameSpecified s t) :
    SameCaptured s.capInit t.capInit := by
  obtain ⟨hpix, -⟩ := (config_wf_iff s.cfg).mp hw
  intro k hk
  simp only [capInit_cbit, capInit_cfg, capBytes] at hk
  obtain hpix | hpix := hpix
  · by_cases h6 : 6 ≤ k
    · simp only [channelGet?_of_ge _ h6]
    · simp only [capInit_cap, h.cfg, hpix, if_true]
      obtain rfl | rfl | rfl : k = 3 ∨ k = 4 ∨ k = 5 := by omega
      all_goals rfl
  · simp only [channelGet?_of_ge _ (show 6 ≤ k by omega)]

/-- At the end of a capture the whole file has been written (R129, R132). -/
theorem cap_eq_of_sameCaptured {s t : State} (h : SameCaptured s t) (hfull : s.cbit = capBits s.cfg) : t.cap = s.cap := by
  refine channels_ext fun k _ => h k ?_
  simp only [hfull, capBits, capBytes]
  omega

/-- A sample that is no byte's eighth completes no entry, and the eighth completes the entry the byte store writes (R126). -/
theorem sameCaptured_cdSample {s t : State} (hcbit : t.cbit = s.cbit) (hshreg : t.shreg = s.shreg) (hdin : t.din = s.din)
    (h : SameCaptured s t) : SameCaptured (rowWrites .cdSample s) (rowWrites .cdSample t) := by
  intro k hk
  simp only [rowWrites, State.byteDone, hcbit, hshreg, hdin] at hk ⊢
  by_cases hb : (s.cbit + 1) % 8 = 0
  · simp only [hb, beq_self_eq_true, if_true]
    refine channelGet?_channelSet_congr _ _ fun hne => h k ?_
    simp only [byteIndex] at hne
    omega
  · simp only [beq_iff_eq, hb, if_false]
    exact h k (by omega)

/-! ### The step -/

/-- The guard of a row reads only what the states agree in. -/
theorem rowApplies_of_indistinguishable {s t : State} {i : Instr} (h : Indistinguishable s t) (hi : RowApplies i s) :
    RowApplies i t := by
  obtain ⟨hspec, hwritten⟩ := h
  cases i <;>
    simp only [RowApplies, AtCode, ResyncNow, ResetSeen, hspec.phase, hspec.sub, hspec.din, hspec.cfg, hspec.idleRun] at hi ⊢
  case cdCount | cdSample | cwlNext | cwlDone | rhCount | rhShort | rhLong =>
    have ⟨⟨hp, hc⟩, _⟩ := hi
    simp only [SameWritten, hp, hc] at hwritten
    simpa [hwritten] using hi
  all_goals exact hi

/-- RDONE inside a pixel (R159). -/
theorem relayDone_of_bit {s : State} (hr : s.rbit ≠ 23) :
    s.relayDone = { s with dout := false, rbit := s.rbit + 1, phase := .relay, sub := 0b00#2 } := by
  simp [State.relayDone, State.pixelDone, hr]

/-- RDONE at the end of a pixel that is not the last of the budget (R159). -/
theorem relayDone_of_pixel {s : State} (hr : s.rbit = 23) (hb : s.budget ≠ 1#8) :
    s.relayDone = { s with dout := false, rbit := 0, budget := s.budget - 1#8, phase := .relay, sub := 0b00#2 } := by
  simp [State.relayDone, State.pixelDone, State.budgetLast, hr, hb]

/-- RDONE at the end of the last pixel of the budget (R159). -/
theorem relayDone_of_last {s : State} (hr : s.rbit = 23) (hb : s.budget = 1#8) :
    s.relayDone = { s with dout := false, rbit := 0, budget := 0#8, phase := .commit, sub := 0b00#2 } := by
  simp [State.relayDone, State.pixelDone, State.budgetLast, hr, hb]

/-- RDONE keeps the states indistinguishable: it reads `rbit` and `budget`, and leads to RELAY or COMMIT (R159). -/
theorem indistinguishable_relayDone {s t : State} (hs : SameSpecified s t) (hrbit : t.rbit = s.rbit)
    (hbudget : t.budget = s.budget) (hcap : t.cap = s.cap) : Indistinguishable s.relayDone t.relayDone := by
  by_cases hr : s.rbit = 23
  · by_cases hb : s.budget = 1#8
    · simp only [relayDone_of_last hr hb, relayDone_of_last (hrbit.trans hr) (hbudget.trans hb)]
      exact ⟨{ hs with dout := rfl, phase := rfl, sub := rfl }, hcap⟩
    · simp only [relayDone_of_pixel hr hb, relayDone_of_pixel (hrbit.trans hr) (hbudget ▸ hb)]
      exact ⟨{ hs with dout := rfl, phase := rfl, sub := rfl }, rfl, congrArg (· - 1#8) hbudget, hcap, by simp⟩
  · simp only [relayDone_of_bit hr, relayDone_of_bit (hrbit ▸ hr)]
    exact ⟨{ hs with dout := rfl, phase := rfl, sub := rfl }, congrArg (· + 1) hrbit, hbudget, hcap, by simp⟩

/-- The writes of a row that applies keep the states indistinguishable. -/
theorem indistinguishable_rowWrites {i : Instr} {s t : State} (hw : s.cfg.wf = true) (h : Indistinguishable s t)
    (hi : RowApplies i s) : Indistinguishable (rowWrites i s) (rowWrites i t) := by
  have ⟨hs, hwritten⟩ := h
  cases i <;> simp only [RowApplies, AtCode] at hi
  case wrActive | wrCount | cwhIdle | cwlHold | rwhIdle | rfHold => exact h
  case wrExit | cwhResync =>
    exact ⟨{ hs with phase := rfl, sub := rfl }, rfl, rfl, by simp [rowWrites], sameCaptured_capInit hw hs⟩
  case cwhStart =>
    obtain ⟨⟨hp, -⟩, -⟩ := hi
    obtain ⟨hcbit, hshreg, -, hcap⟩ := (sameWritten_capture hp).mp hwritten
    exact ⟨{ hs with phase := rfl, sub := rfl }, hcbit, hshreg, fun _ => congrArg dcntLoad hs.cfg, hcap⟩
  case cdCount =>
    obtain ⟨⟨hp, hc⟩, -⟩ := hi
    obtain ⟨hcbit, hshreg, hdcnt, hcap⟩ := (sameWritten_capture hp).mp hwritten
    exact ⟨{ hs with }, (sameWritten_capture (s := rowWrites .cdCount s) hp).mpr ⟨hcbit, hshreg, fun _ => congrArg (· - 1) (hdcnt hc), hcap⟩⟩
  case cdSample =>
    obtain ⟨⟨hp, -⟩, -⟩ := hi
    obtain ⟨hcbit, hshreg, -, hcap⟩ := (sameWritten_capture hp).mp hwritten
    exact ⟨{ hs with phase := rfl, sub := rfl }, congrArg (· + 1) hcbit, congrArg₂ assembleBit hshreg hs.din,
      by simp [rowWrites], sameCaptured_cdSample hcbit hshreg hs.din hcap⟩
  case cwlNext =>
    obtain ⟨⟨hp, -⟩, -⟩ := hi
    obtain ⟨hcbit, hshreg, -, hcap⟩ := (sameWritten_capture hp).mp hwritten
    exact ⟨{ hs with phase := rfl, sub := rfl }, hcbit, hshreg, by simp [rowWrites], hcap⟩
  case cwlDone =>
    obtain ⟨⟨hp, -⟩, -, hfull⟩ := hi
    obtain ⟨-, -, -, hcap⟩ := (sameWritten_capture hp).mp hwritten
    exact ⟨{ hs with phase := rfl, sub := rfl }, rfl, congrArg budgetLoad hs.cfg, cap_eq_of_sameCaptured hcap hfull,
      by simp [rowWrites]⟩
  case rwhEnd =>
    obtain ⟨⟨hp, -⟩, -⟩ := hi
    obtain ⟨-, -, hcap, -⟩ := (sameWritten_relay hp).mp hwritten
    exact ⟨{ hs with phase := rfl, sub := rfl }, hcap⟩
  case rwhStart =>
    obtain ⟨⟨hp, -⟩, -⟩ := hi
    obtain ⟨hrbit, hbudget, hcap, -⟩ := (sameWritten_relay hp).mp hwritten
    exact ⟨{ hs with dout := rfl, phase := rfl, sub := rfl }, hrbit, hbudget, hcap, fun _ => congrArg hcntLoad hs.cfg⟩
  case rhCount =>
    obtain ⟨⟨hp, hc⟩, -⟩ := hi
    obtain ⟨hrbit, hbudget, hcap, hhcnt⟩ := (sameWritten_relay hp).mp hwritten
    exact ⟨{ hs with }, (sameWritten_relay (s := rowWrites .rhCount s) hp).mpr ⟨hrbit, hbudget, hcap, fun _ => congrArg (· - 1) (hhcnt hc)⟩⟩
  case rhShort | rfFall =>
    obtain ⟨⟨hp, -⟩, -⟩ := hi
    obtain ⟨hrbit, hbudget, hcap, -⟩ := (sameWritten_relay hp).mp hwritten
    exact indistinguishable_relayDone hs hrbit hbudget hcap
  case rhLong =>
    obtain ⟨⟨hp, -⟩, -⟩ := hi
    obtain ⟨hrbit, hbudget, hcap, -⟩ := (sameWritten_relay hp).mp hwritten
    exact ⟨{ hs with phase := rfl, sub := rfl }, hrbit, hbudget, hcap, by simp [rowWrites]⟩
  case commit =>
    obtain ⟨hp, -⟩ := hi
    exact ⟨{ hs with pwm := (sameWritten_commit hp).mp hwritten, phase := rfl, sub := rfl }, trivial⟩

/-- The end of a cycle keeps them indistinguishable: the idle counter and the next input are the same in both. -/
theorem indistinguishable_endCycle {s t v w : State} (hs : SameSpecified s t) (h : Indistinguishable v w) :
    Indistinguishable (s.endCycle v) (t.endCycle w) :=
  ⟨{ h.specified with
      idleRun := hs.idleRunNext
      stim := congrArg List.tail hs.stim
      cycle := congrArg (· + 1) hs.cycle }, h.written⟩

/-- A reset cycle leads both to WAIT_RESET with the same outputs, where nothing else is compared (R220). -/
theorem indistinguishable_resetCycle {s t : State} (hs : SameSpecified s t) :
    Indistinguishable s.resetCycle t.resetCycle :=
  ⟨{ hs with
      resetDone := rfl
      phase := rfl
      sub := rfl
      idleRun := rfl
      dout := rfl
      pwm := rfl
      stim := congrArg List.tail hs.stim
      cycle := congrArg (· + 1) hs.cycle }, trivial⟩

/-- A step of one of two indistinguishable states is matched by a step of the other. -/
theorem exists_step_of_indistinguishable {s t s' : State} (h : Indistinguishable s t) (hstep : step s = .next s') :
    ∃ t', step t = .next t' ∧ Indistinguishable s' t' := by
  have hs := h.specified
  obtain ⟨hw, ⟨hr, rfl⟩ | ⟨hr, hd, i, hi, rfl⟩⟩ := step_rowWrites_cases hstep
  · exact ⟨_, step_of_rst (hs.cfg ▸ hw) (hs.rst.trans hr), indistinguishable_resetCycle hs⟩
  · have hrun : Running t := ⟨hs.cfg ▸ hw, hs.resetDone.trans hd, hs.rst.trans hr⟩
    exact ⟨_, step_of_rowApplies hrun (rowApplies_of_indistinguishable h hi), indistinguishable_endCycle hs (indistinguishable_rowWrites hw h hi)⟩

/-- A run of one of two indistinguishable states is matched by a run of the other. -/
theorem exists_runs_of_indistinguishable {n : Nat} {s t s' : State} (h : Indistinguishable s t) (hrun : Runs n s s') :
    ∃ t', Runs n t t' ∧ Indistinguishable s' t' := by
  induction n generalizing s t with
  | zero =>
    obtain rfl : s = s' := hrun
    exact ⟨t, rfl, h⟩
  | succ n ih =>
    obtain ⟨u, hu, hrun⟩ := hrun
    obtain ⟨v, hv, huv⟩ := exists_step_of_indistinguishable h hu
    obtain ⟨t', ht', h'⟩ := ih huv hrun
    exact ⟨t', ⟨v, hv, ht'⟩, h'⟩

end Sys2Proof.Machine

open Sys2Proof Sys2Proof.Machine

/-- Settles O57: in WAIT_RESET nothing the spec leaves unspecified is compared, so the two states are indistinguishable. -/
theorem unspecifiedResetValuesAreNotObservable : Obligations.UnspecifiedResetValuesAreNotObservable := by
  intro s t n s' hcfg hdone ⟨hp, hc⟩ ⟨hp', hc'⟩ hidle hout hstim hcycle hrun
  obtain ⟨hdout, hpwm⟩ := Outputs.mk.inj hout
  have h : Indistinguishable s t :=
    ⟨⟨hcfg, hdone, hp'.trans hp.symm, hc'.trans hc.symm, hidle, hdout, hpwm, hstim, hcycle⟩, by simp [SameWritten, hp]⟩
  obtain ⟨t', ht', ⟨hs, -⟩⟩ := exists_runs_of_indistinguishable h hrun
  exact ⟨t', ht', by simp [State.outputs, hs.dout, hs.pwm], hs.phase, hs.sub⟩

end

section
/-! PROOF. The compare registers are replaced as a whole, and a wait for an active line starts over an idle one
(20_memory.md R55, R57). -/

namespace Sys2Proof.Machine

/-- `pwm` is written by COMMIT alone, which writes the whole captured set (R180). -/
theorem rowWrites_pwm_cases (i : Instr) (s : State) :
    (i ≠ .commit ∧ (rowWrites i s).pwm = s.pwm) ∨ (i = .commit ∧ (rowWrites i s).pwm = s.cap) := by
  cases i <;> simp [rowWrites]

/-- COMMIT is the row of its phase, and of no other (R80). -/
theorem RowApplies.eq_commit_iff {i : Instr} {s : State} (hi : RowApplies i s) : i = .commit ↔ s.phase = .commit := by
  cases i <;> simp only [RowApplies, AtCode] at hi
  case commit =>
    obtain ⟨hp, -⟩ := hi
    simp [hp]
  all_goals
    obtain ⟨⟨hp, -⟩, -⟩ := hi
    simp [hp]

/-- A row that leads to a wait-for-active state requires an idle line: the rows that do not, those for an active line and
those that leave the line open, lead to another code (R80). -/
theorem RowApplies.idle_of_waitForActive {i : Instr} {s : State} (hi : RowApplies i s)
    (hwait : AtCode (rowWrites i s) .capture 0b00#2 ∨ AtCode (rowWrites i s) .relay 0b00#2) : s.din = false := by
  cases i <;> simp only [RowApplies] at hi
  case wrCount | wrExit | cwhIdle | cwhResync | cwlNext | cwlDone | rwhIdle | rwhEnd | rhShort =>
    obtain ⟨-, hidle, -⟩ := hi
    exact hidle
  case rfFall =>
    obtain ⟨-, hidle⟩ := hi
    exact hidle
  case cwhStart | cdSample | rwhStart | rhLong | commit => simp [AtCode, rowWrites] at hwait
  case wrActive | cdCount | cwlHold | rhCount | rfHold =>
    obtain ⟨⟨hp, hc⟩, -⟩ := hi
    simp [AtCode, rowWrites, hp, hc] at hwait

end Sys2Proof.Machine

open Sys2Proof Sys2Proof.Machine

/-- Settles O40: the row taken in COMMIT writes the whole set, and no other row writes `pwm`. -/
theorem compareRegistersChangeTogetherInCommit : Obligations.CompareRegistersChangeTogetherInCommit := by
  intro s t hr h
  obtain ⟨i, hi, rfl⟩ := step_rowWrites_of_not_rst hr h
  rw [endCycle_pwm]
  obtain ⟨hne, hpwm⟩ | ⟨heq, hpwm⟩ := rowWrites_pwm_cases i s
  · exact ⟨fun _ => hpwm, fun hp => absurd (hi.eq_commit_iff.mpr hp) hne⟩
  · exact ⟨fun hp => absurd (hi.eq_commit_iff.mp heq) hp, fun _ => hpwm⟩

/-- Settles O43: every row that leads to a wait-for-active state has an idle line in its pattern. -/
theorem waitForActiveFollowsAnIdleCycle : Obligations.WaitForActiveFollowsAnIdleCycle := by
  intro s t hr h hwait
  obtain ⟨i, hi, rfl⟩ := step_rowWrites_of_not_rst hr h
  exact hi.idle_of_waitForActive hwait

end

section
/-! PROOF. The decoder and the encoder agree with the transition table (30_encoding.md R79 to R81). -/

namespace Sys2Proof

/-- A row of the table applies to a word and guards: the word, masked, is the row's pattern, and the guard holds (R79). -/
def TableRow (S : BitVec 5) (g : Guards) (i : Instr) : Prop := S &&& i.mask = i.pattern ∧ i.guard g = true

/-! ### The decoder, by state code -/

theorem decode_waitReset (d : Bool) (g : Guards) :
    decode (selectorWord .waitReset 0b00#2 d) g = .row (decodeWaitReset d g) := by simp [decode]
theorem decode_captureWaitHigh (d : Bool) (g : Guards) :
    decode (selectorWord .capture 0b00#2 d) g = .row (decodeCaptureWaitHigh d g) := by simp [decode]
theorem decode_captureDelay (d : Bool) (g : Guards) :
    decode (selectorWord .capture 0b01#2 d) g = .row (decodeCaptureDelay g) := by simp [decode]
theorem decode_captureWaitLow (d : Bool) (g : Guards) :
    decode (selectorWord .capture 0b10#2 d) g = decodeCaptureWaitLow d g := by simp [decode]
theorem decode_relayWaitHigh (d : Bool) (g : Guards) :
    decode (selectorWord .relay 0b00#2 d) g = .row (decodeRelayWaitHigh d g) := by simp [decode]
theorem decode_relayHold (d : Bool) (g : Guards) :
    decode (selectorWord .relay 0b01#2 d) g = .row (decodeRelayHold d g) := by simp [decode]
theorem decode_relayFollow (d : Bool) (g : Guards) :
    decode (selectorWord .relay 0b10#2 d) g = .row (decodeRelayFollow d) := by simp [decode]
theorem decode_commit (d : Bool) (g : Guards) :
    decode (selectorWord .commit 0b00#2 d) g = .row .commit := by simp [decode]

/-- The eight legal codes of the state register (R21). -/
theorem legalCode_cases {p : Phase} {c : SubCode} (h : legalCode p c = true) :
    (p = .waitReset ∧ c = 0b00#2) ∨
      (p = .capture ∧ c = 0b00#2) ∨ (p = .capture ∧ c = 0b01#2) ∨ (p = .capture ∧ c = 0b10#2) ∨
      (p = .relay ∧ c = 0b00#2) ∨ (p = .relay ∧ c = 0b01#2) ∨ (p = .relay ∧ c = 0b10#2) ∨
      (p = .commit ∧ c = 0b00#2) := by
  cases p <;> revert c <;> decide

/-- The decoder rejects every code that is not legal (R81). -/
theorem decode_of_reserved {p : Phase} {c : SubCode} (h : legalCode p c = false) (d : Bool) (g : Guards) :
    decode (selectorWord p c d) g = .reservedCode := by
  cases p <;> obtain rfl | rfl | rfl | rfl := subCode_cases c <;> simp_all [decode, legalCode]

/-! ### The rows the decoder answers are rows of the table -/

/-- A choice between two rows answers a row of the table if each branch does under its own condition. -/
theorem tableRow_ite {S : BitVec 5} {g : Guards} {i j : Instr} {b : Bool} (hi : b = true → TableRow S g i)
    (hj : b = false → TableRow S g j) : TableRow S g (if b then i else j) := by
  cases b
  · exact hj rfl
  · exact hi rfl

theorem tableRow_decodeWaitReset (d : Bool) (g : Guards) :
    TableRow (selectorWord .waitReset 0b00#2 d) g (decodeWaitReset d g) := by
  refine tableRow_ite (fun hd => ?active) (fun hd => tableRow_ite (fun hr => ?exit) (fun hr => ?count)) <;> subst hd
  case active => exact ⟨rfl, rfl⟩
  case exit => exact ⟨rfl, hr⟩
  case count => exact ⟨rfl, by simp [Instr.guard, hr]⟩

theorem tableRow_decodeCaptureWaitHigh (d : Bool) (g : Guards) :
    TableRow (selectorWord .capture 0b00#2 d) g (decodeCaptureWaitHigh d g) := by
  refine tableRow_ite (fun hd => ?start) (fun hd => tableRow_ite (fun hr => ?resync) (fun hr => ?idle)) <;> subst hd
  case start => exact ⟨rfl, rfl⟩
  case resync => exact ⟨rfl, hr⟩
  case idle => exact ⟨rfl, by simp only [Instr.guard, hr, Bool.not_false]⟩

theorem tableRow_decodeCaptureDelay (d : Bool) (g : Guards) :
    TableRow (selectorWord .capture 0b01#2 d) g (decodeCaptureDelay g) := by
  refine tableRow_ite (fun hz => ?sample) (fun hz => ?count)
  case sample => exact ⟨by revert d; decide, hz⟩
  case count => exact ⟨by revert d; decide, by simp [Instr.guard, hz]⟩

/-- In `C_WAIT_LOW` the decoder answers a row of the table unless `cbit` is above its range. -/
theorem decodeCaptureWaitLow_cases (d : Bool) (g : Guards) :
    (∃ i, decodeCaptureWaitLow d g = .row i ∧ TableRow (selectorWord .capture 0b10#2 d) g i) ∨
      (decodeCaptureWaitLow d g = .cbitOutOfRange ∧ g.cbitVsCap = .gt) := by
  cases d
  case true => exact .inl ⟨.cwlHold, rfl, rfl, rfl⟩
  case false =>
    cases hc : g.cbitVsCap
    case lt => exact .inl ⟨.cwlNext, by simp [decodeCaptureWaitLow, hc], rfl, by simp [Instr.guard, hc]⟩
    case eq => exact .inl ⟨.cwlDone, by simp [decodeCaptureWaitLow, hc], rfl, by simp [Instr.guard, hc]⟩
    case gt => exact .inr ⟨by simp [decodeCaptureWaitLow, hc], rfl⟩

theorem tableRow_decodeRelayWaitHigh (d : Bool) (g : Guards) :
    TableRow (selectorWord .relay 0b00#2 d) g (decodeRelayWaitHigh d g) := by
  refine tableRow_ite (fun hd => ?start) (fun hd => tableRow_ite (fun hr => ?ended) (fun hr => ?idle)) <;> subst hd
  case start => exact ⟨rfl, rfl⟩
  case ended => exact ⟨rfl, hr⟩
  case idle => exact ⟨rfl, by simp only [Instr.guard, hr, Bool.not_false]⟩

theorem tableRow_decodeRelayHold (d : Bool) (g : Guards) :
    TableRow (selectorWord .relay 0b01#2 d) g (decodeRelayHold d g) := by
  refine tableRow_ite (fun hz => tableRow_ite (fun hd => ?long) (fun hd => ?short)) (fun hz => ?count)
  case long => exact hd ▸ ⟨rfl, hz⟩
  case short => exact hd ▸ ⟨rfl, hz⟩
  case count => exact ⟨by revert d; decide, by simp [Instr.guard, hz]⟩

theorem tableRow_decodeRelayFollow (d : Bool) (g : Guards) :
    TableRow (selectorWord .relay 0b10#2 d) g (decodeRelayFollow d) :=
  tableRow_ite (fun hd => hd ▸ ⟨rfl, rfl⟩) (fun hd => hd ▸ ⟨rfl, rfl⟩)

/-- In a legal code the decoder answers a row of the table, except for a `cbit` above its range (R79, R80). -/
theorem decode_of_legal {p : Phase} {c : SubCode} (h : legalCode p c = true) (d : Bool) (g : Guards) :
    (∃ i, decode (selectorWord p c d) g = .row i ∧ TableRow (selectorWord p c d) g i) ∨
      (decode (selectorWord p c d) g = .cbitOutOfRange ∧ g.cbitVsCap = .gt) := by
  obtain ⟨rfl, rfl⟩ | ⟨rfl, rfl⟩ | ⟨rfl, rfl⟩ | ⟨rfl, rfl⟩ | ⟨rfl, rfl⟩ | ⟨rfl, rfl⟩ | ⟨rfl, rfl⟩ | ⟨rfl, rfl⟩ :=
    legalCode_cases h
  · exact .inl ⟨_, decode_waitReset d g, tableRow_decodeWaitReset d g⟩
  · exact .inl ⟨_, decode_captureWaitHigh d g, tableRow_decodeCaptureWaitHigh d g⟩
  · exact .inl ⟨_, decode_captureDelay d g, tableRow_decodeCaptureDelay d g⟩
  · rw [decode_captureWaitLow]
    exact decodeCaptureWaitLow_cases d g
  · exact .inl ⟨_, decode_relayWaitHigh d g, tableRow_decodeRelayWaitHigh d g⟩
  · exact .inl ⟨_, decode_relayHold d g, tableRow_decodeRelayHold d g⟩
  · exact .inl ⟨_, decode_relayFollow d g, tableRow_decodeRelayFollow d g⟩
  · exact .inl ⟨_, decode_commit d g, by revert d; decide, rfl⟩

/-- Whatever the decoder answers for a word, by whether the word's code is legal. -/
theorem decode_cases (S : BitVec 5) (g : Guards) :
    (legalCode (selectorPhase S) (selectorSub S) = false ∧ decode S g = .reservedCode) ∨
      (legalCode (selectorPhase S) (selectorSub S) = true ∧
        ((∃ i, decode S g = .row i ∧ TableRow S g i) ∨ (decode S g = .cbitOutOfRange ∧ g.cbitVsCap = .gt))) := by
  cases h : legalCode (selectorPhase S) (selectorSub S)
  case false => exact .inl ⟨rfl, selectorWord_fields S ▸ decode_of_reserved h (selectorDin S) g⟩
  case true => exact .inr ⟨rfl, selectorWord_fields S ▸ decode_of_legal h (selectorDin S) g⟩

theorem tableRow_of_decode {S : BitVec 5} {g : Guards} {i : Instr} (h : decode S g = .row i) : TableRow S g i := by
  obtain ⟨-, hd⟩ | ⟨-, ⟨j, hd, hj⟩ | ⟨hd, -⟩⟩ := decode_cases S g <;> rw [hd] at h
  · cases h
  · injection h with h
    exact h ▸ hj
  · cases h

/-- The decoder rejects a word exactly when its code is reserved (R81). -/
theorem decode_reserved_iff (S : BitVec 5) (g : Guards) :
    decode S g = .reservedCode ↔ legalCode (selectorPhase S) (selectorSub S) = false := by
  obtain ⟨hl, hd⟩ | ⟨hl, ⟨i, hd, -⟩ | ⟨hd, -⟩⟩ := decode_cases S g <;> simp [hl, hd]

/-- In a legal code, with `cbit` in its range, some row is answered (R79). -/
theorem exists_decode_eq_row {p : Phase} {c : SubCode} (h : legalCode p c = true) (d : Bool) {g : Guards}
    (hg : g.cbitVsCap ≠ .gt) : ∃ i, decode (selectorWord p c d) g = .row i := by
  obtain ⟨i, hi, -⟩ | ⟨-, hgt⟩ := decode_of_legal h d g
  · exact ⟨i, hi⟩
  · exact absurd hgt hg

/-! ### The encoder -/

/-- The state code of a row's selector pattern (R78, R80). -/
def Instr.code : Instr → Phase × SubCode
  | .wrActive | .wrCount | .wrExit => (.waitReset, 0b00#2)
  | .cwhIdle | .cwhResync | .cwhStart => (.capture, 0b00#2)
  | .cdCount | .cdSample => (.capture, 0b01#2)
  | .cwlHold | .cwlNext | .cwlDone => (.capture, 0b10#2)
  | .rwhIdle | .rwhEnd | .rwhStart => (.relay, 0b00#2)
  | .rhCount | .rhShort | .rhLong => (.relay, 0b01#2)
  | .rfHold | .rfFall => (.relay, 0b10#2)
  | .commit => (.commit, 0b00#2)

/-- The line a row's selector pattern asks for; `x` where it leaves the line open (R80). -/
def Instr.lineOr (x : Bool) : Instr → Bool
  | .cdCount | .cdSample | .rhCount | .commit => x
  | .wrActive | .cwhStart | .cwlHold | .rwhStart | .rhLong | .rfHold => true
  | .wrCount | .wrExit | .cwhIdle | .cwhResync | .cwlNext | .cwlDone | .rwhIdle | .rwhEnd | .rhShort | .rfFall => false

/-- The encoder writes the row's state code and its line. -/
theorem encode_eq_selectorWord (i : Instr) (x : Bool) : encode i x = selectorWord i.code.1 i.code.2 (i.lineOr x) := by
  cases i <;> revert x <;> decide

/-- The words of a row's pattern are the two the encoder writes for it. -/
theorem mask_eq_pattern_iff (S : BitVec 5) (i : Instr) : S &&& i.mask = i.pattern ↔ ∃ x, S = encode i x := by
  cases i <;> revert S <;> decide

/-- A row's word decodes to the row under guards that satisfy the row's guard. -/
theorem decode_encode {i : Instr} {g : Guards} (x : Bool) (h : i.guard g = true) : decode (encode i x) g = .row i := by
  rw [encode_eq_selectorWord]
  cases i <;> simp only [Instr.code, Instr.lineOr, Instr.guard, Bool.not_eq_true', beq_iff_eq] at h ⊢
  case wrActive | wrCount | wrExit => simp [decode_waitReset, decodeWaitReset, *]
  case cwhIdle | cwhResync | cwhStart => simp [decode_captureWaitHigh, decodeCaptureWaitHigh, *]
  case cdCount | cdSample => simp [decode_captureDelay, decodeCaptureDelay, h]
  case cwlHold | cwlNext | cwlDone => simp [decode_captureWaitLow, decodeCaptureWaitLow, *]
  case rwhIdle | rwhEnd | rwhStart => simp [decode_relayWaitHigh, decodeRelayWaitHigh, *]
  case rhCount | rhShort | rhLong => simp [decode_relayHold, decodeRelayHold, h]
  case rfHold | rfFall => simp [decode_relayFollow, decodeRelayFollow]
  case commit => exact decode_commit x g

/-- The decoder answers a row exactly when the table's row applies (R79). -/
theorem decode_eq_row_iff (S : BitVec 5) (g : Guards) (i : Instr) : decode S g = .row i ↔ TableRow S g i := by
  refine ⟨tableRow_of_decode, fun ⟨hS, hg⟩ => ?_⟩
  obtain ⟨x, rfl⟩ := (mask_eq_pattern_iff S i).mp hS
  exact decode_encode x hg

/-- No two rows of the table apply at once (R79). -/
theorem tableRow_unique {S : BitVec 5} {g : Guards} {i j : Instr} (hi : TableRow S g i) (hj : TableRow S g j) : j = i := by
  rw [← decode_eq_row_iff] at hi hj
  exact (Decoded.row.inj (hi.symm.trans hj)).symm

/-- The reserved codes, as the values of the selector (R81). -/
theorem legalCode_eq_false_iff (S : BitVec 5) : legalCode (selectorPhase S) (selectorSub S) = false ↔
    (2 ≤ S.toNat ∧ S.toNat ≤ 7) ∨ (14 ≤ S.toNat ∧ S.toNat ≤ 15) ∨ (22 ≤ S.toNat ∧ S.toNat ≤ 23) ∨
      (26 ≤ S.toNat ∧ S.toNat ≤ 31) := by
  revert S
  decide

end Sys2Proof

open Sys2Proof

/-- Settles O3: the encoder writes the row's state code, and at each code the row's guard selects it. -/
theorem decodeOfEncodeIsTheRow : Obligations.DecodeOfEncodeIsTheRow :=
  fun _ x _ h => decode_encode x h

/-- Settles O4: the decoder answers exactly the rows of the table, and it answers one in every legal code. -/
theorem exactlyTheTableRowApplies : Obligations.ExactlyTheTableRowApplies := by
  refine ⟨decode_eq_row_iff, fun p c d g hl hg => ?_⟩
  obtain ⟨i, hi⟩ := exists_decode_eq_row hl d hg
  have hrow := tableRow_of_decode hi
  exact ⟨i, hrow, fun j hS hguard => tableRow_unique hrow ⟨hS, hguard⟩⟩

/-- Settles O2: six words, evaluated. -/
theorem selectorWordsDecode : Obligations.SelectorWordsDecode := by
  unfold Obligations.SelectorWordsDecode
  decide

end

section
/-! PROOF. A running block takes a row, stops only in a reserved code, and never reaches one (30_encoding.md R79, R81, R82). -/

namespace Sys2Proof.Machine

/-- RDONE leads to a legal code (R159). -/
theorem relayDone_legal (s : State) : legalCode s.relayDone.phase s.relayDone.sub = true := by
  obtain ⟨-, h⟩ | ⟨-, -, h⟩ | ⟨-, -, h⟩ := relayDone_cases s <;> rw [h] <;> rfl

/-- The rows that apply lead to a legal code, whatever the counters hold (R80). -/
theorem rowWrites_legal {i : Instr} {s : State} (hi : RowApplies i s) :
    legalCode (rowWrites i s).phase (rowWrites i s).sub = true := by
  cases i <;> simp only [RowApplies, AtCode] at hi
  case wrActive | wrCount | cwhIdle | cwlHold | rwhIdle | rfHold | cdCount | rhCount =>
    obtain ⟨⟨hp, hc⟩, -⟩ := hi
    simp [rowWrites, hp, hc, legalCode]
  case rhShort | rfFall => exact relayDone_legal s
  all_goals rfl

/-- A block in a reserved code faults (R81). -/
theorem step_of_reserved {s : State} (hr : Running s) (h : legalCode s.phase s.sub = false) :
    step s = .fault .illegalState := by
  obtain ⟨hw, hd, hrst⟩ := hr
  simp [step, (configRefusal_eq_none_iff _).mpr hw, hrst, hd, (decoded_reserved_iff s).mpr h]

/-- Every step leads to a legal code: a reset cycle to WAIT_RESET, a row to the code it writes. -/
theorem step_legal {s t : State} (h : step s = .next t) : legalCode t.phase t.sub = true := by
  obtain ⟨-, ⟨-, rfl⟩ | ⟨-, -, i, hi, rfl⟩⟩ := step_rowWrites_cases h
  · rfl
  · exact rowWrites_legal hi

/-- A block with the invariant that has been reset takes a step, and has been reset after it (R82, R222). -/
theorem exists_step_of_stateInv {s : State} (hs : StateInv s) (hd : s.resetDone = true) :
    ∃ t, step s = .next t ∧ t.resetDone = true := by
  cases hr : s.rst
  case true => exact ⟨_, step_of_rst hs.config hr, rfl⟩
  case false =>
    obtain ⟨i, hi⟩ := exists_rowApplies hs.legal fun ⟨hp, _⟩ _ => hs.cbitLe hp
    exact ⟨_, step_of_rowApplies ⟨hs.config, hd, hr⟩ hi, by simpa using hd⟩

/-- So such a block runs for any number of cycles. -/
theorem exists_runs_of_stateInv (n : Nat) {s : State} (hs : StateInv s) (hd : s.resetDone = true) : ∃ t, Runs n s t := by
  induction n generalizing s with
  | zero => exact ⟨s, rfl⟩
  | succ n ih =>
    obtain ⟨u, hu, hd'⟩ := exists_step_of_stateInv hs hd
    obtain ⟨t, ht⟩ := ih (step_stateInv hs hu) hd'
    exact ⟨t, u, hu, ht⟩

/-- The reset state has the invariant, whatever inputs it is given. -/
theorem stateInv_drive_resetWith {c : Config} (hw : c.wf = true) (ps : List Pins) :
    StateInv ((State.resetWith c).drive ps) :=
  stateInv_of_phaseInv hw (Nat.zero_le _) ⟨rfl, rfl⟩

end Sys2Proof.Machine

open Sys2Proof Sys2Proof.Machine

/-- Settles O36: in the invariant's codes some row applies, and each step keeps the invariant. -/
theorem noInputStopsTheBlock : Obligations.NoInputStopsTheBlock :=
  ⟨fun _ => exists_step_of_stateInv, fun _ ps n hw => exists_runs_of_stateInv n (stateInv_drive_resetWith hw ps) rfl⟩

/-- Settles O5: the decoder rejects the codes that are not legal, and every row leads to a legal one. -/
theorem reservedCodesFaultAndAreNeverEntered : Obligations.ReservedCodesFaultAndAreNeverEntered :=
  ⟨fun S g => (decode_reserved_iff S g).trans (legalCode_eq_false_iff S), fun _ => step_of_reserved,
    fun _ _ => step_legal⟩

/-- Settles O1: past the configuration, `rst` and `resetDone`, a step is the row its decoder answers. -/
theorem stepRunsDecodedRow : Obligations.StepRunsDecodedRow :=
  fun _ _ => step_of_decoded

end

section
/-! PROOF. The stimulus statements and the inputs they expand to (30_encoding.md R90, R91). -/

namespace Sys2Proof.Machine

/-- `B0` and `B1` are the bit windows of their bits. -/
theorem expand_bit (p : Profile) (b : Bool) : expand p (if b then .b1 else .b0) = bitWindow p b := by
  cases b <;> rfl

/-- `BYTE` is the statements `B0` and `B1` of its bits, the most significant first. -/
theorem expand_byte (p : Profile) (v : Byte) :
    expand p (.byte v) =
      ([7, 6, 5, 4, 3, 2, 1, 0].map fun i => expand p (if v.getLsbD i then .b1 else .b0)).flatten := by
  simp only [expand_bit]
  rfl

/-- `REP` of one more is the body once more. -/
theorem repeatInputs_succ (k : Nat) (ps : List Pins) : repeatInputs (k + 1) ps = ps ++ repeatInputs k ps := by
  simp [repeatInputs, List.replicate_succ]

end Sys2Proof.Machine

open Sys2Proof Sys2Proof.Machine

/-- Settles O58: each statement's expansion is its clause of `expand`. -/
theorem stimulusExpandsAsTheNotationSays : Obligations.StimulusExpandsAsTheNotationSays := by
  intro p n k v c0 c1 c2 a b
  refine ⟨rfl, rfl, rfl, rfl, rfl, rfl, expand_byte p v, ?pix, rfl, rfl, repeatInputs_succ k (expand p a)⟩
  case pix => simp only [expand, List.append_assoc]

end

section
/-! PROOF. How a captured bit is read from the line (30_encoding.md R71, R74; 41_bit_capture.md R123 to R133). -/

namespace Sys2Proof.Machine

/-- Byte assembly, bit by bit: the new bit at the low end, the others one place up (R74). -/
theorem getLsbD_assembleBit (r : Byte) (b : Bool) {i : Nat} (hi : i < 8) :
    (assembleBit r b).getLsbD i = if i = 0 then b else r.getLsbD (i - 1) := by
  cases i with
  | zero => cases b <;> simp [assembleBit]
  | succ i => cases b <;> simp [assembleBit, hi, -BitVec.getLsbD_eq_getElem]

/-- Byte assembly in the words of R74. -/
theorem assembleBit_eq (r : Byte) (b : Bool) : assembleBit r b = (r <<< 1) ||| (if b then 1#8 else 0#8) := by
  cases b <;> rfl

/-- Eight bits in wire order replace the register, since each shifts the bits before it up by one place. -/
theorem foldl_assembleBit_byteBits (old v : Byte) : (byteBits v).foldl assembleBit old = v := by
  refine BitVec.eq_of_getLsbD_eq fun i hi => ?_
  simp only [byteBits, List.foldl_cons, List.foldl_nil]
  interval_cases i <;> simp [getLsbD_assembleBit, -BitVec.getLsbD_eq_getElem]

end Sys2Proof.Machine

open Sys2Proof Sys2Proof.Machine

/-- Settles O49: the register's old bits are the eight that are shifted out. -/
theorem eightSamplesMakeTheByte : Obligations.EightSamplesMakeTheByte :=
  ⟨assembleBit_eq, foldl_assembleBit_byteBits⟩

end

section
/-! PROOF. Runs over a given line: from the first active cycle of a bit window to its sample and to its end
(30_encoding.md R71; 41_bit_capture.md R123 to R129, R133). -/

namespace Sys2Proof.Machine

/-- The state `w` with the fields the end of a cycle moves on: the idle count, the inputs to come and the cycle count. -/
def State.moved (w : State) (idle : Nat) (stim : List Pins) (cycle : Nat) : State :=
  { w with idleRun := idle, stim := stim, cycle := cycle }

theorem moved_self {s : State} {ps : List Pins} (h : s.stim = ps) : s.moved s.idleRun ps s.cycle = s := by
  simp [State.moved, ← h]

/-- The block takes a row in a cycle for which the stimulus has `rst = 0`. -/
theorem running_of_stim {s : State} {d : Bool} {ps : List Pins} (hw : s.cfg.wf = true) (hd : s.resetDone = true)
    (hs : s.stim = { rst := false, din := d } :: ps) : Running s :=
  ⟨hw, hd, rst_of_stim hs⟩

/-- One cycle over a given line: the writes of the row that applies, with the next input coming up. -/
theorem step_of_stim {s : State} {d : Bool} {ps : List Pins} {i : Instr} (hw : s.cfg.wf = true)
    (hd : s.resetDone = true) (hs : s.stim = { rst := false, din := d } :: ps) (hi : RowApplies i s) :
    step s = .next ((rowWrites i s).moved s.idleRunNext ps (s.cycle + 1)) := by
  rw [step_of_rowApplies (running_of_stim hw hd hs) hi]
  simp [State.endCycle, State.moved, hs]

/-- The sampling offset is counted down whatever the line does (R124). -/
theorem runs_cdCount {s : State} {ds : List Bool} {rest : List Pins} (hw : s.cfg.wf = true) (hd : s.resetDone = true)
    (hc : AtCode s .capture 0b01#2) (hlen : s.dcnt = ds.length) (hs : s.stim = line ds ++ rest) :
    ∃ r c, Runs ds.length s (State.moved { s with dcnt := 0 } r rest c) := by
  induction ds generalizing s with
  | nil =>
    have hz : { s with dcnt := 0 } = s := by rw [← show s.dcnt = 0 from hlen]
    exact ⟨s.idleRun, s.cycle, by rw [hz]; exact (moved_self hs).symm⟩
  | cons d ds ih =>
    have hi : RowApplies .cdCount s := ⟨hc, by simp [hlen]⟩
    obtain ⟨r, c, hrun⟩ := ih (s := (rowWrites .cdCount s).moved s.idleRunNext (line ds ++ rest) (s.cycle + 1)) hw hd hc
      (by simp [State.moved, rowWrites, hlen]) rfl
    exact ⟨r, c, _, step_of_stim hw hd hs hi, hrun⟩

/-- While the line stays active after the sample, `C_WAIT_LOW` holds (R127). -/
theorem runs_cwlHold {s : State} {k : Nat} {rest : List Pins} (hw : s.cfg.wf = true) (hd : s.resetDone = true)
    (hc : AtCode s .capture 0b10#2) (hs : s.stim = level true k ++ rest) : ∃ r c, Runs k s (s.moved r rest c) := by
  induction k generalizing s with
  | zero => exact ⟨s.idleRun, s.cycle, (moved_self hs).symm⟩
  | succ k ih =>
    have hs' : s.stim = { rst := false, din := true } :: (level true k ++ rest) := hs
    have hi : RowApplies .cwlHold s := ⟨hc, din_of_stim hs'⟩
    obtain ⟨r, c, hrun⟩ := ih (s := s.moved s.idleRunNext (level true k ++ rest) (s.cycle + 1)) hw hd hc rfl
    exact ⟨r, c, _, step_of_stim hw hd hs' hi, hrun⟩

/-- What the bit window that starts in `s` has written when the bit `b` has been sampled (R123 to R126). -/
def State.sampled (s : State) (b : Bool) : State :=
  { s with
    cap := if s.byteDone then channelSet s.cap (byteIndex s.cbit) (dutyValue (assembleBit s.shreg b)) else s.cap
    shreg := assembleBit s.shreg b
    cbit := s.cbit + 1
    dcnt := 0
    phase := .capture
    sub := 0b10#2 }

/-- From `C_WAIT_HIGH`, over an active cycle and `T_SAMPLE` more, the level of the last one is the bit sampled (R71). -/
theorem runs_sampled {s : State} {ds : List Bool} {b : Bool} {rest : List Pins} (hw : s.cfg.wf = true)
    (hd : s.resetDone = true) (hc : AtCode s .capture 0b00#2) (hlen : s.cfg.tSample = ds.length + 1)
    (hs : s.stim = line (true :: (ds ++ [b])) ++ rest) :
    ∃ r c, Runs (s.cfg.tSample + 1) s ((s.sampled b).moved r rest c) := by
  have hs : s.stim = { rst := false, din := true } :: (line ds ++ { rst := false, din := b } :: rest) := by
    simpa [line] using hs
  have hstart : RowApplies .cwhStart s := ⟨hc, din_of_stim hs⟩
  have hstep := step_of_stim hw hd hs hstart
  set u := (rowWrites .cwhStart s).moved s.idleRunNext (line ds ++ { rst := false, din := b } :: rest) (s.cycle + 1)
  have hdcnt : u.dcnt = ds.length := by simp [u, State.moved, rowWrites, dcntLoad, hlen]
  obtain ⟨r, c, hcount⟩ := runs_cdCount (s := u) hw hd ⟨rfl, rfl⟩ hdcnt rfl
  set v := State.moved { u with dcnt := 0 } r ({ rst := false, din := b } :: rest) c
  have hsample := step_of_stim (s := v) (i := .cdSample) hw hd rfl ⟨⟨rfl, rfl⟩, rfl⟩
  refine ⟨v.idleRunNext, v.cycle + 1, ?_⟩
  rw [hlen]
  exact ⟨u, hstep, (runs_add ds.length 1 u _).mpr ⟨v, hcount, _, hsample, rfl⟩⟩

/-- A pulse of `h` active cycles, seen from the capture: its first cycle, `T` cycles of which the last is active exactly when
`h > T`, the rest of the pulse, and an idle cycle (R71, R133). -/
theorem pulse_split {h m T : Nat} (hh : 1 ≤ h) (hT : 1 ≤ T) (hm : max h (T + 1) + 1 ≤ h + m) :
    ∃ ds k m', T = ds.length + 1 ∧ max h (T + 1) = T + 1 + k ∧
      level true h ++ level false m = line (true :: (ds ++ [decide (T < h)])) ++ level true k ++ level false (m' + 1) := by
  obtain ⟨j, rfl⟩ : ∃ j, T = j + 1 := ⟨T - 1, by omega⟩
  by_cases hlong : j + 1 < h
  · obtain ⟨k, rfl⟩ : ∃ k, h = 1 + j + 1 + k := ⟨h - (j + 2), by omega⟩
    obtain ⟨m', rfl⟩ : ∃ m', m = m' + 1 := ⟨m - 1, by omega⟩
    refine ⟨List.replicate j true, k, m', by simp, by omega, ?_⟩
    simp [line, level, hlong, List.replicate_add]
  · obtain ⟨a, rfl⟩ : ∃ a, h = 1 + a := ⟨h - 1, by omega⟩
    obtain ⟨e, rfl⟩ : ∃ e, j = a + e := ⟨j - a, by omega⟩
    obtain ⟨m', rfl⟩ : ∃ m', m = e + 1 + (m' + 1) := ⟨m - (e + 2), by omega⟩
    refine ⟨List.replicate a true ++ List.replicate e false, 0, m', by simp, by omega, ?_⟩
    simp [line, level, hlong, List.replicate_add]

/-- The idle cycle that ends a captured bit window: on to the next bit, or, after the last, to the relay with a full budget
(R128, R129). -/
theorem step_endOfWindow {s : State} {ps : List Pins} (hw : s.cfg.wf = true) (hd : s.resetDone = true)
    (hc : AtCode s .capture 0b10#2) (hle : s.cbit ≤ capBits s.cfg) (hs : s.stim = { rst := false, din := false } :: ps) :
    ∃ t, step s = .next t ∧ t.stim = ps ∧ t.cbit = s.cbit ∧ t.shreg = s.shreg ∧ t.cap = s.cap ∧ t.outputs = s.outputs ∧
      (s.cbit < capBits s.cfg → AtCode t .capture 0b00#2) ∧
      (s.cbit = capBits s.cfg → AtCode t .relay 0b00#2 ∧ t.rbit = 0 ∧ t.budget.toNat = s.cfg.relayBudget) := by
  obtain hlt | heq := Nat.lt_or_eq_of_le hle
  · exact ⟨_, step_of_stim (i := .cwlNext) hw hd hs ⟨hc, din_of_stim hs, hlt⟩, rfl, rfl, rfl, rfl, rfl,
      fun _ => ⟨rfl, rfl⟩, fun he => absurd he hlt.ne⟩
  · exact ⟨_, step_of_stim (i := .cwlDone) hw hd hs ⟨hc, din_of_stim hs, heq⟩, rfl, rfl, rfl, rfl, rfl,
      fun hlt => absurd heq hlt.ne, fun _ => ⟨⟨rfl, rfl⟩, rfl, budgetLoad_toNat hw⟩⟩

end Sys2Proof.Machine

open Sys2Proof Sys2Proof.Machine

/-- Settles O47: the delay ignores the line, and the sampling row shifts in the level of its own cycle. -/
theorem capturedBitIsTheLevelAtTheSamplingOffset : Obligations.CapturedBitIsTheLevelAtTheSamplingOffset := by
  intro s ds rest hw hd hc hlen hs b hb
  obtain ⟨ds, rfl⟩ := List.getLast?_eq_some_iff.mp hb
  obtain ⟨r, c, hrun⟩ := runs_sampled hw hd hc (by simpa using hlen.symm) hs
  exact ⟨_, hrun, ⟨rfl, rfl⟩, rfl, assembleBit_eq s.shreg b, rfl⟩

/-- Settles O48: the sample reads the pulse as longer than `T_SAMPLE` or not, `C_WAIT_LOW` waits for its end, and the first
idle cycle after both ends the bit window. -/
theorem pulseIsCapturedByItsWidth : Obligations.PulseIsCapturedByItsWidth := by
  intro s h m rest hw hd hc hlt hh hm hs
  obtain ⟨-, -, hT, -⟩ := (config_wf_iff s.cfg).mp hw
  obtain ⟨ds, k, m', hlen, hmax, hline⟩ := pulse_split hh hT hm
  rw [hline, List.append_assoc, List.append_assoc] at hs
  obtain ⟨r, c, hsampled⟩ := runs_sampled hw hd hc hlen hs
  obtain ⟨r', c', hheld⟩ := runs_cwlHold (s := (s.sampled (decide (s.cfg.tSample < h))).moved r _ c) hw hd ⟨rfl, rfl⟩ rfl
  obtain ⟨t, hend, -, hcbit, hshreg, -, hout, hnext, hdone⟩ := step_endOfWindow
    (s := (s.sampled (decide (s.cfg.tSample < h))).moved r' _ c') hw hd ⟨rfl, rfl⟩ hlt rfl
  have hrun : Runs (s.cfg.tSample + 1 + k + 1) s t :=
    (runs_add _ 1 s t).mpr ⟨_, (runs_add _ k s _).mpr ⟨_, hsampled, hheld⟩, t, hend, rfl⟩
  refine ⟨t, hmax ▸ hrun, hcbit, ?_, hout, hnext, hdone⟩
  simpa [State.moved, State.sampled, assembleBit_eq] using hshreg

end

section
/-! PROOF. The idle counter counts the idle cycles at the end of the line, saturated (40_frame_sync.md R101). -/

namespace Sys2Proof.Machine

@[simp] theorem idleTail_nil (r : Nat) : idleTail r [] = r := rfl

@[simp] theorem idleTail_cons (r : Nat) (d : Bool) (ds : List Bool) :
    idleTail r (d :: ds) = idleTail (if d then 0 else r + 1) ds := rfl

@[simp] theorem idleTail_append (r : Nat) (ds es : List Bool) : idleTail r (ds ++ es) = idleTail (idleTail r ds) es :=
  List.foldl_append

/-- Saturating the count before a line makes no difference to the saturated count after it. -/
theorem min_idleTail_min (r T : Nat) (ds : List Bool) : min (idleTail (min r T) ds) T = min (idleTail r ds) T := by
  induction ds generalizing r with
  | nil => simp
  | cons d ds ih =>
    cases d with
    | true => rfl
    | false =>
      have hsucc : min (min r T + 1) T = min (r + 1) T := by omega
      calc min (idleTail (min r T + 1) ds) T
          = min (idleTail (min (min r T + 1) T) ds) T := (ih _).symm
        _ = min (idleTail (r + 1) ds) T := by rw [hsucc, ih]

/-- The idle counter's update is the count over one cycle, saturated (R101). -/
theorem idleRunNext_eq_idleTail (s : State) : s.idleRunNext = min (idleTail s.idleRun [s.din]) s.cfg.tReset := by
  cases h : s.din
  case true => simp [idleRunNext_of_active h]
  case false => simp [idleRunNext_of_idle h]

/-- After a run over a line the idle counter holds the idle cycles at the line's end, saturated. -/
theorem idleRun_of_runs {s t : State} {ds : List Bool} {rest : List Pins} (hle : s.idleRun ≤ s.cfg.tReset)
    (hs : s.stim = line ds ++ rest) (hrun : Runs ds.length s t) :
    t.idleRun = min (idleTail s.idleRun ds) s.cfg.tReset := by
  induction ds generalizing s with
  | nil =>
    obtain rfl : s = t := hrun
    exact (min_eq_left hle).symm
  | cons d ds ih =>
    obtain ⟨u, hstep, hrun⟩ := hrun
    have hs : s.stim = { rst := false, din := d } :: (line ds ++ rest) := hs
    obtain ⟨i, -, rfl⟩ := step_rowWrites_of_not_rst (rst_of_stim hs) hstep
    have hrest := ih (by simpa using idleRunNext_le s) (by simp [hs]) hrun
    rw [endCycle_idleRun, endCycle_cfg, rowWrites_cfg, idleRunNext_eq_idleTail, din_of_stim hs, min_idleTail_min,
      ← idleTail_append] at hrest
    exact hrest

end Sys2Proof.Machine

open Sys2Proof Sys2Proof.Machine

/-- Settles O37: a reset cycle clears the idle counter, every other cycle ends with its update, and a run adds these up. -/
theorem idleRunCountsConsecutiveIdleCycles : Obligations.IdleRunCountsConsecutiveIdleCycles := by
  refine ⟨fun s t h => ?_, fun _ _ _ _ => idleRun_of_runs⟩
  obtain ⟨-, ⟨hr, rfl⟩ | ⟨hr, -, i, -, rfl⟩⟩ := step_rowWrites_cases h
  · simp [hr]
  · simp [hr, State.idleRunNext]

end

section
/-! PROOF. The rows of WAIT_RESET, and runs there up to the first reset gap (40_frame_sync.md R104 to R107). -/

namespace Sys2Proof.Machine

/-- A running block takes the row whose pattern and guard hold (R79). -/
theorem step_eq_exec_of_rowApplies {s : State} {i : Instr} (hr : Running s) (hi : RowApplies i s) : step s = exec i s :=
  step_of_decoded hr (decoded_of_rowApplies hi)

/-- A cycle with which the idle run is still short of `T_RESET` is counted, and writes nothing else (R104, R105). -/
theorem step_waitReset_short {s : State} {d : Bool} {ps : List Pins} (hw : s.cfg.wf = true) (hd : s.resetDone = true)
    (hc : AtCode s .waitReset 0b00#2) (hs : s.stim = { rst := false, din := d } :: ps)
    (hshort : idleTail s.idleRun [d] < s.cfg.tReset) :
    step s = .next (s.moved (idleTail s.idleRun [d]) ps (s.cycle + 1)) := by
  have hdin : s.din = d := din_of_stim hs
  have hidle : s.idleRunNext = idleTail s.idleRun [d] := by
    rw [idleRunNext_eq_idleTail, hdin, min_eq_left hshort.le]
  rw [← hidle]
  cases d with
  | true => exact step_of_stim (i := .wrActive) hw hd hs ⟨hc, hdin⟩
  | false => exact step_of_stim (i := .wrCount) hw hd hs ⟨hc, hdin, fun ⟨_, hle⟩ => hshort.not_ge hle⟩

/-- While no idle run is `T_RESET` long, a run in WAIT_RESET moves nothing but the idle count. -/
theorem runs_waitReset_short {s : State} {ds : List Bool} {rest : List Pins} (hw : s.cfg.wf = true)
    (hd : s.resetDone = true) (hc : AtCode s .waitReset 0b00#2) (hs : s.stim = line ds ++ rest)
    (hshort : ∀ n, 1 ≤ n → n ≤ ds.length → idleTail s.idleRun (ds.take n) < s.cfg.tReset) :
    ∃ c, Runs ds.length s (s.moved (idleTail s.idleRun ds) rest c) := by
  induction ds generalizing s with
  | nil => exact ⟨s.cycle, (moved_self hs).symm⟩
  | cons d ds ih =>
    have hstep := step_waitReset_short hw hd hc hs (hshort 1 le_rfl (by simp))
    obtain ⟨c, hrun⟩ := ih (s := s.moved (idleTail s.idleRun [d]) (line ds ++ rest) (s.cycle + 1)) hw hd hc rfl
      fun n _ hn => hshort (n + 1) (by omega) (Nat.succ_le_succ hn)
    exact ⟨c, _, hstep, hrun⟩

/-- The cycle that makes the idle run `T_RESET` long starts a capture (R106). -/
theorem step_waitReset_gap {s : State} {d : Bool} {ps : List Pins} (hw : s.cfg.wf = true) (hd : s.resetDone = true)
    (hc : AtCode s .waitReset 0b00#2) (hs : s.stim = { rst := false, din := d } :: ps)
    (hgap : s.cfg.tReset ≤ idleTail s.idleRun [d]) :
    step s = .next ((s.capInit.goto .capture 0b00#2).moved s.idleRunNext ps (s.cycle + 1)) := by
  cases d with
  | true =>
    obtain ⟨-, -, -, -, hreset⟩ := (config_wf_iff s.cfg).mp hw
    have hzero : s.cfg.tReset ≤ 0 := hgap
    omega
  | false => exact step_of_stim (i := .wrExit) hw hd hs ⟨hc, din_of_stim hs, din_of_stim hs, hgap⟩

end Sys2Proof.Machine

open Sys2Proof Sys2Proof.Machine

/-- Settles O6: WR_ACTIVE writes nothing, and an active cycle clears the idle counter. -/
theorem wrActiveClearsTheIdleCount : Obligations.WrActiveClearsTheIdleCount := by
  intro s hr hc hdin
  refine ⟨step_eq_exec_of_rowApplies hr ⟨hc, hdin⟩, ?_⟩
  rw [exec_wrActive, State.endCycle, idleRunNext_of_active hdin]

/-- Settles O7: WR_COUNT writes nothing, and below `T_RESET` the idle counter is not saturated. -/
theorem wrCountCountsAnIdleCycle : Obligations.WrCountCountsAnIdleCycle := by
  intro s hr hc hdin hlt
  refine ⟨step_eq_exec_of_rowApplies hr ⟨hc, hdin, fun ⟨_, hle⟩ => hlt.not_ge hle⟩, ?_⟩
  rw [exec_wrCount, State.endCycle, idleRunNext_of_idle hdin, min_eq_left hlt.le]

/-- Settles O8: WR_EXIT writes CAPINIT and the state register, and the idle counter is saturated. -/
theorem wrExitStartsTheCapture : Obligations.WrExitStartsTheCapture := by
  intro s hr hc hdin hle
  refine ⟨step_eq_exec_of_rowApplies hr ⟨hc, hdin, hdin, hle⟩, ?_⟩
  rw [exec_wrExit, State.endCycle, idleRunNext_of_idle hdin, min_eq_right hle]
  rfl

/-- Settles O45: WR_ACTIVE and WR_COUNT keep the block in WAIT_RESET up to the cycle that completes the gap, which WR_EXIT
takes. -/
theorem captureStartsAtTheFirstResetGap : Obligations.CaptureStartsAtTheFirstResetGap := by
  intro s ds rest hw hd hc hs
  refine ⟨fun hshort => ?_, fun hne hshort hgap => ?_⟩
  · obtain ⟨c, hrun⟩ := runs_waitReset_short hw hd hc hs hshort
    exact ⟨_, hrun, hc, rfl⟩
  · obtain ⟨ds, d, rfl⟩ := (List.eq_nil_or_concat' ds).resolve_left hne
    have hs : s.stim = line ds ++ { rst := false, din := d } :: rest := by simpa [line] using hs
    obtain ⟨c, hwait⟩ := runs_waitReset_short hw hd hc hs fun n h1 hn => by
      simpa [List.take_append_of_le_length hn] using hshort n h1 (by simpa using Nat.lt_succ_of_le hn)
    rw [idleTail_append] at hgap
    have hexit := step_waitReset_gap (s := s.moved (idleTail s.idleRun ds) _ c) (ps := rest) hw hd hc rfl hgap
    rw [List.length_append]
    exact ⟨_, (runs_add ds.length 1 s _).mpr ⟨_, hwait, _, hexit, rfl⟩, ⟨rfl, rfl⟩, rfl, rfl, rfl⟩

end

section
/-! PROOF. On an idle line CAPTURE and RELAY reach a wait-for-active state, or COMMIT, within the bound of R103: the cycles
still to go, read off the state, fall by one in each cycle. -/

namespace Sys2Proof.Machine

/-- A level held for some cycles and then for more. -/
theorem level_add (d : Bool) (m n : Nat) : level d (m + n) = level d m ++ level d n :=
  List.replicate_add m n _

/-- The idle cycles from a state to the next wait-for-active state or COMMIT: the offset or the hold interval still to count,
and the cycles that end the bit window; none outside the states of a bit window. -/
def State.cyclesToWait (s : State) : Nat :=
  match s.phase with
  | .capture => if s.sub = 0b01#2 then s.dcnt + 2 else if s.sub = 0b10#2 then 1 else 0
  | .relay => if s.sub = 0b01#2 then s.hcnt + 1 else if s.sub = 0b10#2 then 1 else 0
  | .waitReset | .commit => 0

/-- Within the ranges of the counters these are no more than R103 gives. -/
theorem cyclesToWait_le {s : State} (hr : InRange s) : s.cyclesToWait ≤ max s.cfg.tSample s.cfg.tHold + 1 := by
  obtain ⟨-, hdcnt, -, hhcnt, -⟩ := hr
  unfold State.cyclesToWait
  split
  · split_ifs <;> omega
  · split_ifs <;> omega
  · exact Nat.zero_le _
  · exact Nat.zero_le _

/-- RDONE leaves no cycle to go (R159). -/
theorem relayDone_cyclesToWait (s : State) : s.relayDone.cyclesToWait = 0 ∧ s.relayDone.phase ≠ .waitReset := by
  obtain h | h := relayDone_phase_cases s <;> simp [State.cyclesToWait, h]

/-- With no cycle left to go, a legal state of another phase than WAIT_RESET is one of those R103 names. -/
theorem waitState_of_cyclesToWait {s : State} (hl : legalCode s.phase s.sub = true) (hp : s.phase ≠ .waitReset)
    (hz : s.cyclesToWait = 0) : AtCode s .capture 0b00#2 ∨ AtCode s .relay 0b00#2 ∨ AtCode s .commit 0b00#2 := by
  cases h : s.phase
  case waitReset => exact absurd h hp
  case commit => exact .inr (.inr ⟨h, by simpa [legalCode, h] using hl⟩)
  case capture | relay =>
    obtain hc | hc | hc | hc := subCode_cases s.sub
    case inl => simp [AtCode, h, hc]
    case inr.inr.inr => simp [legalCode, h, hc] at hl
    all_goals simp [State.cyclesToWait, h, hc] at hz

/-- A row that applies in an idle cycle of a bit window leaves one cycle less to go. -/
theorem rowWrites_cyclesToWait {i : Instr} {s : State} (hi : RowApplies i s) (hidle : s.din = false)
    (hpos : 0 < s.cyclesToWait) :
    (rowWrites i s).cyclesToWait + 1 = s.cyclesToWait ∧ (rowWrites i s).phase ≠ .waitReset := by
  cases i <;> simp only [RowApplies, AtCode] at hi
  case wrActive | wrCount | wrExit | cwhIdle | cwhResync | cwhStart | rwhIdle | rwhEnd | rwhStart =>
    obtain ⟨⟨hp, hc⟩, -⟩ := hi
    simp [State.cyclesToWait, hp, hc] at hpos
  case commit =>
    obtain ⟨hp, -⟩ := hi
    simp [State.cyclesToWait, hp] at hpos
  case cwlHold | rfHold | rhLong => simp [hidle] at hi
  case cdCount | rhCount =>
    obtain ⟨⟨hp, hc⟩, hne⟩ := hi
    obtain ⟨k, hk⟩ := Nat.exists_eq_succ_of_ne_zero hne
    simp [State.cyclesToWait, rowWrites, hp, hc, hk]
  case cdSample =>
    obtain ⟨⟨hp, hc⟩, hz⟩ := hi
    simp [State.cyclesToWait, rowWrites, hp, hc, hz]
  case cwlNext | cwlDone =>
    obtain ⟨⟨hp, hc⟩, -⟩ := hi
    simp [State.cyclesToWait, rowWrites, hp, hc]
  case rhShort =>
    obtain ⟨⟨hp, hc⟩, -, hz⟩ := hi
    have hlast : s.cyclesToWait = 1 := by simp [State.cyclesToWait, hp, hc, hz]
    simpa [rowWrites, hlast] using relayDone_cyclesToWait s
  case rfFall =>
    obtain ⟨⟨hp, hc⟩, -⟩ := hi
    have hlast : s.cyclesToWait = 1 := by simp [State.cyclesToWait, hp, hc]
    simpa [rowWrites, hlast] using relayDone_cyclesToWait s

/-- A line that stays idle for the cycles to go brings the block to a state R103 names. -/
theorem runs_cyclesToWait {s : State} {k : Nat} {rest : List Pins} (hs : StateInv s) (hd : s.resetDone = true)
    (hp : s.phase ≠ .waitReset) (hk : s.cyclesToWait = k) (hstim : s.stim = level false k ++ rest) :
    ∃ t, Runs k s t ∧ (AtCode t .capture 0b00#2 ∨ AtCode t .relay 0b00#2 ∨ AtCode t .commit 0b00#2) := by
  induction k generalizing s with
  | zero => exact ⟨s, rfl, waitState_of_cyclesToWait hs.legal hp hk⟩
  | succ k ih =>
    have hstim : s.stim = { rst := false, din := false } :: (level false k ++ rest) := hstim
    obtain ⟨u, hstep, hud⟩ := exists_step_of_stateInv hs hd
    obtain ⟨i, hi, rfl⟩ := step_rowWrites_of_not_rst (rst_of_stim hstim) hstep
    obtain ⟨hless, hup⟩ := rowWrites_cyclesToWait hi (din_of_stim hstim) (by omega)
    obtain ⟨t, hrun, ht⟩ := ih (step_stateInv hs hstep) hud hup (Nat.succ.inj (hless.trans hk)) (by simp [hstim])
    exact ⟨t, ⟨_, hstep, hrun⟩, ht⟩

end Sys2Proof.Machine

open Sys2Proof Sys2Proof.Machine

/-- Settles O44: the two resync rows have the wait-for-active state and the condition in their pattern and guard, and on an
idle line the cycles to go to such a state run out within the bound. -/
theorem resyncHappensInWaitForActiveStates : Obligations.ResyncHappensInWaitForActiveStates := by
  refine ⟨fun s i hdec hrow => ?_, fun s rest hs hr hd hphase hstim => ?_⟩
  · have hi := (decoded_row_iff s i).mp hdec
    obtain rfl | rfl := hrow
    · obtain ⟨hc, -, hon, hdin, hle⟩ := hi
      exact ⟨hon, hdin, hle, .inl hc⟩
    · obtain ⟨hc, -, hon, hdin, hle⟩ := hi
      exact ⟨hon, hdin, hle, .inr hc⟩
  · have hle := cyclesToWait_le hr
    obtain ⟨m, hm⟩ := Nat.exists_eq_add_of_le hle
    have hp : s.phase ≠ .waitReset := by obtain h | h := hphase <;> simp [h]
    obtain ⟨t, hrun, ht⟩ := runs_cyclesToWait (rest := level false m ++ rest) hs hd hp rfl
      (by rw [hstim, hm, level_add, List.append_assoc])
    exact ⟨_, t, hle, hrun, ht⟩

end

section
/-! PROOF. The rows of CAPTURE, each as its whole next state (41_bit_capture.md R121 to R129). -/

namespace Sys2Proof.Machine

/-- The eighth sample of a byte completes an entry below `CAP_BYTES`, as long as bits of the capture remain (R33, R126). -/
theorem byteIndex_lt {c : Config} {n : Nat} (hlt : n < capBits c) (hbyte : (n + 1) % 8 = 0) : byteIndex n < capBytes c := by
  simp only [capBits, capBytes, byteIndex] at *
  omega

/-- A legal configuration has no more captured bytes than a file has entries (R6, R7). -/
theorem capBytes_le {c : Config} (hw : c.wf = true) : capBytes c ≤ 6 := by
  obtain ⟨hpix, -⟩ := (config_wf_iff c).mp hw
  simp only [capBytes]
  omega

/-- The file after the sample of a bit: the eighth of a byte writes the byte's complement to its entry and no other entry
changes; any other sample changes none (R125, R126). -/
theorem channelGet?_sampled {s : State} (hw : s.cfg.wf = true) (hlt : s.cbit < capBits s.cfg) (b : Bool) (k : Nat) :
    channelGet? (s.sampled b).cap k =
      if (s.cbit + 1) % 8 = 0 ∧ k = byteIndex s.cbit then some (dutyValue (assembleBit s.shreg b))
      else channelGet? s.cap k := by
  by_cases hbyte : (s.cbit + 1) % 8 = 0
  · have h6 : byteIndex s.cbit < 6 := (byteIndex_lt hlt hbyte).trans_le (capBytes_le hw)
    simp [State.sampled, State.byteDone, hbyte, channelGet?_channelSet, h6]
  · simp [State.sampled, State.byteDone, hbyte]

end Sys2Proof.Machine

open Sys2Proof Sys2Proof.Machine

/-- Settles O13: CD_SAMPLE writes the file that the byte store leaves, and the entry it names exists. -/
theorem cdSampleShiftsTheBitAndStoresTheByte : Obligations.CdSampleShiftsTheBitAndStoresTheByte := by
  intro s hr hc hz hlt
  refine ⟨step_eq_exec_of_rowApplies hr ⟨hc, hz⟩, (s.sampled s.din).cap, ?next, ?file⟩
  case next =>
    rw [exec_cdSample, ← assembleBit_eq]
    rfl
  case file =>
    obtain ⟨hw, -⟩ := hr
    rw [← assembleBit_eq]
    exact channelGet?_sampled hw hlt s.din

/-- Settles O9: CWH_IDLE writes nothing. -/
theorem cwhIdleWaits : Obligations.CwhIdleWaits := by
  intro s hr hc hdin hno
  refine ⟨step_eq_exec_of_rowApplies hr ⟨hc, hdin, fun ⟨hon, _, hle⟩ => hno ⟨hon, hle⟩⟩, ?_⟩
  rw [exec_cwhIdle, State.endCycle, idleRunNext_of_idle hdin]

/-- Settles O10: CWH_RESYNC writes CAPINIT and the state register, and the idle counter is saturated. -/
theorem cwhResyncRestartsTheCapture : Obligations.CwhResyncRestartsTheCapture := by
  intro s hr hc hdin hon hle
  refine ⟨step_eq_exec_of_rowApplies hr ⟨hc, hdin, hon, hdin, hle⟩, ?_⟩
  rw [exec_cwhResync, State.endCycle, idleRunNext_of_idle hdin, min_eq_right hle]
  rfl

/-- Settles O11: CWH_START loads the delay counter, and an active cycle clears the idle counter. -/
theorem cwhStartLoadsTheSamplingOffset : Obligations.CwhStartLoadsTheSamplingOffset := by
  intro s hr hc hdin
  refine ⟨step_eq_exec_of_rowApplies hr ⟨hc, hdin⟩, ?_⟩
  rw [exec_cwhStart, State.endCycle, idleRunNext_of_active hdin]
  rfl

/-- Settles O12: CD_COUNT applies whatever the line is, and writes the delay counter alone. -/
theorem cdCountCountsTheOffsetDown : Obligations.CdCountCountsTheOffsetDown :=
  fun s hr hc hne => ⟨step_eq_exec_of_rowApplies hr ⟨hc, hne⟩, exec_cdCount s⟩

/-- Settles O14: CWL_HOLD writes nothing, and an active cycle clears the idle counter. -/
theorem cwlHoldWaits : Obligations.CwlHoldWaits := by
  intro s hr hc hdin
  refine ⟨step_eq_exec_of_rowApplies hr ⟨hc, hdin⟩, ?_⟩
  rw [exec_cwlHold, State.endCycle, idleRunNext_of_active hdin]

/-- Settles O15: CWL_NEXT writes the state register alone. -/
theorem cwlNextGoesToTheNextBit : Obligations.CwlNextGoesToTheNextBit := by
  intro s hr hc hdin hlt
  refine ⟨step_eq_exec_of_rowApplies hr ⟨hc, hdin, hlt⟩, ?_⟩
  rw [exec_cwlNext, State.endCycle, idleRunNext_of_idle hdin]
  rfl

/-- Settles O16: CWL_DONE writes RELAYINIT and the state register, and a legal budget fits its register. -/
theorem cwlDoneStartsTheRelay : Obligations.CwlDoneStartsTheRelay := by
  intro s hr hc hdin hfull
  have ⟨hw, _⟩ := hr
  refine ⟨step_eq_exec_of_rowApplies hr ⟨hc, hdin, hfull⟩, ?_, budgetLoad_toNat hw⟩
  rw [exec_cwlDone, State.endCycle, idleRunNext_of_idle hdin]
  rfl

end

section
/-! PROOF. What holds of the captured pixels from CAPINIT to COMMIT, and where RELAY and COMMIT are entered
(41_bit_capture.md R130, R131; 42_relay.md R163). -/

namespace Sys2Proof.Machine

/-- A byte store below entry 3 leaves the second pixel as it is. -/
theorem channelSet_secondPixel (c : Channels) {k : Nat} (v : Byte) (hk : k < 3) :
    (channelSet c k v).b3 = c.b3 ∧ (channelSet c k v).b4 = c.b4 ∧ (channelSet c k v).b5 = c.b5 := by
  interval_cases k <;> exact ⟨rfl, rfl, rfl⟩

/-- The bytes of a one-pixel capture are stored below entry 3 (R76). -/
theorem sampled_secondPixel {s : State} (hpix : s.cfg.pixels = 1) (hlt : s.cbit < capBits s.cfg) (b : Bool) :
    (s.sampled b).cap.b3 = s.cap.b3 ∧ (s.sampled b).cap.b4 = s.cap.b4 ∧ (s.sampled b).cap.b5 = s.cap.b5 := by
  by_cases hbyte : (s.cbit + 1) % 8 = 0
  · have hk : byteIndex s.cbit < 3 := by simpa [capBytes, hpix] using byteIndex_lt hlt hbyte
    simpa [State.sampled, State.byteDone, hbyte] using channelSet_secondPixel s.cap _ hk
  · simp [State.sampled, State.byteDone, hbyte]

/-- The rows that apply keep the off sentinel: CAPINIT writes it, the byte store spares it, and no other row that leads out
of WAIT_RESET, or stays out of it, writes `cap`. -/
theorem rowWrites_sentinelHeld {i : Instr} {s : State} (hs : StateInv s) (hi : RowApplies i s) (h : SentinelHeld s) :
    SentinelHeld (rowWrites i s) := by
  intro hpix hout
  rw [rowWrites_cfg] at hpix
  cases i
  case wrExit | cwhResync => simp [rowWrites, hpix, dutyOff]
  case cdSample =>
    have hlt := cbit_lt_of_cdSample hs hi
    obtain ⟨⟨hp, -⟩, -⟩ := hi
    obtain ⟨h3, h4, h5⟩ := sampled_secondPixel hpix hlt s.din
    obtain ⟨e3, e4, e5⟩ := h hpix (by simp [hp])
    exact ⟨h3.trans e3, h4.trans e4, h5.trans e5⟩
  case wrActive | wrCount =>
    obtain ⟨⟨hp, -⟩, -⟩ := hi
    exact absurd hp hout
  case commit => exact absurd rfl hout
  all_goals
    obtain ⟨⟨hp, -⟩, -⟩ := hi
    simpa [rowWrites] using h hpix (by simp [hp])

/-- No cycle that starts in RELAY writes the captured pixels (R26, R131). -/
theorem step_cap_of_relay {s t : State} (hp : s.phase = .relay) (h : step s = .next t) : t.cap = s.cap := by
  by_contra hne
  obtain ⟨-, ⟨-, -, -, ⟨⟨hp', -⟩, -⟩ | ⟨⟨hp', -⟩, -⟩⟩ | ⟨⟨hp', -⟩, -⟩⟩ := capturedPixelsChangeOnlyInACapture s t h hne
  all_goals simp [hp] at hp'

/-- A run through RELAY keeps the captured pixels, whatever is relayed. -/
theorem runs_cap_of_relay {n : Nat} {s u : State} (hrun : Runs n s u)
    (hrelay : ∀ m v, m < n → Runs m s v → v.phase = .relay) : u.cap = s.cap := by
  induction n generalizing s with
  | zero =>
    obtain rfl : s = u := hrun
    rfl
  | succ n ih =>
    obtain ⟨v, hstep, hrun⟩ := hrun
    calc u.cap = v.cap := ih hrun fun m w hm hw => hrelay (m + 1) w (by omega) ⟨v, hstep, hw⟩
      _ = s.cap := step_cap_of_relay (hrelay 0 s (by omega) rfl) hstep

/-- The rows that lead from another phase to RELAY: CWL_DONE alone (R131). -/
theorem RowApplies.eq_cwlDone_of_relay {i : Instr} {s : State} (hi : RowApplies i s)
    (ht : (rowWrites i s).phase = .relay) (hs : s.phase ≠ .relay) : i = .cwlDone := by
  cases i <;> simp only [RowApplies, AtCode] at hi
  case cwlDone => rfl
  case wrActive | wrCount | cwhIdle | cdCount | cwlHold => exact absurd ht hs
  case wrExit | cwhResync | cwhStart | cdSample | cwlNext | commit => simp [rowWrites] at ht
  all_goals
    obtain ⟨⟨hp, -⟩, -⟩ := hi
    exact absurd hp hs

/-- RDONE leads to COMMIT exactly at the last bit of the last budgeted pixel (R159). -/
theorem relayDone_commit_iff (s : State) : s.relayDone.phase = .commit ↔ s.rbit = 23 ∧ s.budget = 1#8 := by
  obtain ⟨hr, h⟩ | ⟨hr, hb, h⟩ | ⟨hr, hb, h⟩ := relayDone_cases s <;> simp [*]

/-- The rows that lead to COMMIT: RWH_END, and the two rows of RDONE at the end of the budget (R131, R163). -/
theorem RowApplies.of_commit {i : Instr} {s : State} (hi : RowApplies i s) (ht : (rowWrites i s).phase = .commit) :
    i = .rwhEnd ∨ ((i = .rhShort ∨ i = .rfFall) ∧ s.rbit = 23 ∧ s.budget = 1#8) := by
  cases i <;> simp only [RowApplies, AtCode] at hi
  case rwhEnd => exact .inl rfl
  case rhShort => exact .inr ⟨.inl rfl, (relayDone_commit_iff s).mp ht⟩
  case rfFall => exact .inr ⟨.inr rfl, (relayDone_commit_iff s).mp ht⟩
  case wrExit | cwhResync | cwhStart | cdSample | cwlNext | cwlDone | rwhStart | rhLong | commit =>
    simp [rowWrites] at ht
  all_goals
    obtain ⟨⟨hp, -⟩, -⟩ := hi
    simp [rowWrites, hp] at ht

end Sys2Proof.Machine

open Sys2Proof Sys2Proof.Machine

/-- Settles O35: the rows keep the sentinel, and COMMIT copies the file that holds it. -/
theorem singlePixelModeCommitsTheOffSentinel : Obligations.SinglePixelModeCommitsTheOffSentinel := by
  intro s t hs hheld h
  refine ⟨?held, fun hpix hp hr => ?committed⟩
  case held =>
    obtain ⟨-, ⟨-, rfl⟩ | ⟨-, -, i, hi, rfl⟩⟩ := step_rowWrites_cases h
    · exact fun _ hout => absurd rfl hout
    · exact rowWrites_sentinelHeld hs hi hheld
  case committed =>
    obtain ⟨-, hpwm⟩ := compareRegistersChangeTogetherInCommit s t hr h
    rw [hpwm hp]
    exact hheld hpix (by simp [hp])

/-- Settles O39: the row taken is one of those that lead there, and its pattern and guard are what is said. -/
theorem relayAndCommitAreEnteredOnlyAsSaid : Obligations.RelayAndCommitAreEnteredOnlyAsSaid := by
  intro s t hr h
  obtain ⟨i, hi, rfl⟩ := step_rowWrites_of_not_rst hr h
  refine ⟨fun ht hs => ?relay, fun ht => ?commit⟩
  case relay =>
    obtain rfl := hi.eq_cwlDone_of_relay ht hs
    exact hi
  case commit =>
    obtain rfl | ⟨rfl | rfl, hlast⟩ := hi.of_commit ht
    · obtain ⟨hc, -, hon, hseen⟩ := hi
      exact .inl ⟨hc, hon, hseen⟩
    · obtain ⟨hc, hdin, hz⟩ := hi
      exact .inr ⟨.inl ⟨hc, hz⟩, hdin, hlast⟩
    · obtain ⟨hc, hdin⟩ := hi
      exact .inr ⟨.inr hc, hdin, hlast⟩

/-- Settles O52: the run through RELAY keeps the pixels, and the COMMIT cycle copies them. -/
theorem commitWritesThePixelsCapturedBeforeTheRelay : Obligations.CommitWritesThePixelsCapturedBeforeTheRelay := by
  intro s u t n _ hrun hu hr hrelay hstep
  obtain ⟨-, hpwm⟩ := compareRegistersChangeTogetherInCommit u t hr hstep
  have hcap : u.cap = s.cap := runs_cap_of_relay hrun fun m v hm hv => (hrelay m v hm hv).2
  have horder := phasesFollowTheirOrder u t hr hstep
  rw [hu] at horder
  exact ⟨(hpwm hu).trans hcap, horder⟩

end

section
/-! PROOF. A capture, bit window by bit window and byte by byte (41_bit_capture.md R132, R133). -/

namespace Sys2Proof.Machine

/-! ### One bit window -/

/-- The block waits for a bit window of the capture, or, with the capture complete, for the first one to relay. -/
def AwaitsWindow (s : State) : Prop :=
  (s.cbit < capBits s.cfg ∧ AtCode s .capture 0b00#2) ∨ (s.cbit = capBits s.cfg ∧ AtCode s .relay 0b00#2)

/-- The states agree in what a capture assembles. -/
structure SameAssembled (s t : State) : Prop where
  cbit : t.cbit = s.cbit
  shreg : t.shreg = s.shreg
  cap : t.cap = s.cap

theorem SameAssembled.trans {s t u : State} (h : SameAssembled s t) (h' : SameAssembled t u) : SameAssembled s u :=
  ⟨h'.cbit.trans h.cbit, h'.shreg.trans h.shreg, h'.cap.trans h.cap⟩

/-- A sample assembles from what has been assembled before, and from nothing else. -/
theorem SameAssembled.sampled {s t : State} (h : SameAssembled s t) (b : Bool) : SameAssembled (s.sampled b) (t.sampled b) := by
  constructor <;> simp [State.sampled, State.byteDone, h.cbit, h.shreg, h.cap]

theorem SameAssembled.foldl_sampled {s t : State} (h : SameAssembled s t) (bs : List Bool) :
    SameAssembled (bs.foldl State.sampled s) (bs.foldl State.sampled t) := by
  induction bs generalizing s t with
  | nil => exact h
  | cons b bs ih => exact ih (h.sampled b)

/-- No run writes the configuration, and a block that has been reset stays so (R32, R222). -/
theorem runs_cfg_resetDone {n : Nat} {s t : State} (hrun : Runs n s t) (hd : s.resetDone = true) :
    t.cfg = s.cfg ∧ t.resetDone = true := by
  induction n generalizing s with
  | zero =>
    obtain rfl : s = t := hrun
    exact ⟨rfl, hd⟩
  | succ n ih =>
    obtain ⟨u, hstep, hrun⟩ := hrun
    obtain ⟨-, ⟨-, rfl⟩ | ⟨-, -, i, -, rfl⟩⟩ := step_rowWrites_cases hstep
    · simpa using ih hrun rfl
    · simpa using ih hrun (by simpa using hd)

/-- After a line that starts active, the idle counter holds the idle cycles at its end, saturated, whatever it held before. -/
theorem idleRun_of_runs_active {s t : State} {ds : List Bool} {rest : List Pins} (hs : s.stim = line (true :: ds) ++ rest)
    (hrun : Runs (ds.length + 1) s t) : t.idleRun = min (idleTail 0 ds) s.cfg.tReset := by
  have hs : s.stim = { rst := false, din := true } :: (line ds ++ rest) := hs
  obtain ⟨u, hstep, hrun⟩ := hrun
  obtain ⟨i, -, rfl⟩ := step_rowWrites_of_not_rst (rst_of_stim hs) hstep
  have hzero : s.idleRunNext = 0 := idleRunNext_of_active (din_of_stim hs)
  simpa [hzero] using idleRun_of_runs (ds := ds) (rest := rest) (by simp [hzero]) (by simp [hs]) hrun

/-- Idle cycles add to the count. -/
theorem idleTail_replicate_idle (r n : Nat) : idleTail r (List.replicate n false) = r + n := by
  induction n generalizing r with
  | zero => rfl
  | succ n ih =>
    rw [List.replicate_succ, idleTail_cons]
    simpa [Nat.add_assoc, Nat.add_comm 1] using ih (r + 1)

/-- Active cycles restart the count. -/
theorem idleTail_replicate_active (n : Nat) : idleTail 0 (List.replicate n true) = 0 := by
  induction n with
  | zero => rfl
  | succ n ih => simpa [List.replicate_succ] using ih

/-- Idle cycles that do not complete a reset gap leave a block that waits for an active line as it is (R121, R151). -/
theorem runs_awaitsWindow_idle {s : State} {k : Nat} {rest : List Pins} (hw : s.cfg.wf = true) (hd : s.resetDone = true)
    (ha : AwaitsWindow s) (hshort : s.idleRun + k < s.cfg.tReset)
    (hs : s.stim = level false k ++ rest) : ∃ r c, Runs k s (s.moved r rest c) := by
  induction k generalizing s with
  | zero => exact ⟨s.idleRun, s.cycle, (moved_self hs).symm⟩
  | succ k ih =>
    have hs' : s.stim = { rst := false, din := false } :: (level false k ++ rest) := hs
    have hdin := din_of_stim hs'
    have hno : ¬ ResyncNow s := fun ⟨_, _, hle⟩ => by omega
    have hstep : step s = .next (s.moved s.idleRunNext (level false k ++ rest) (s.cycle + 1)) := by
      obtain ⟨-, hc⟩ | ⟨-, hc⟩ := ha
      · exact step_of_stim (i := .cwhIdle) hw hd hs' ⟨hc, hdin, hno⟩
      · exact step_of_stim (i := .rwhIdle) hw hd hs' ⟨hc, hdin, hno⟩
    have hidle : s.idleRunNext = s.idleRun + 1 := by
      rw [idleRunNext_of_idle hdin]
      omega
    obtain ⟨r, c, hrun⟩ := ih (s := s.moved s.idleRunNext (level false k ++ rest) (s.cycle + 1)) hw hd ha
      (by simp only [State.moved, hidle]; omega) rfl
    exact ⟨r, c, _, hstep, hrun⟩

/-- A pulse of `h` active cycles and the idle cycles up to the end of its bit window: the bit has been assembled, and of the
`h + m` cycles of the window `j` are left, all of them idle (R71, R133). -/
theorem runs_pulse {s : State} {h m : Nat} {rest : List Pins} (hw : s.cfg.wf = true) (hd : s.resetDone = true)
    (hc : AtCode s .capture 0b00#2) (hlt : s.cbit < capBits s.cfg) (hh : 1 ≤ h)
    (hm : max h (s.cfg.tSample + 1) + 1 ≤ h + m) (hs : s.stim = level true h ++ level false m ++ rest) :
    ∃ n j t, h ≤ n ∧ n + j = h + m ∧ Runs n s t ∧ t.stim = level false j ++ rest ∧
      SameAssembled (s.sampled (decide (s.cfg.tSample < h))) t ∧ t.outputs = s.outputs ∧ AwaitsWindow t := by
  obtain ⟨-, -, hT, -⟩ := (config_wf_iff s.cfg).mp hw
  obtain ⟨ds, k, j, hlen, hmax, hline⟩ := pulse_split hh hT hm
  have hcount : h + m = s.cfg.tSample + 1 + k + 1 + j := by
    have := congrArg List.length hline
    simp only [level, line, List.length_append, List.length_replicate, List.length_map, List.length_cons,
      List.length_nil] at this
    omega
  rw [hline, List.append_assoc, List.append_assoc] at hs
  obtain ⟨r, c, hsampled⟩ := runs_sampled hw hd hc hlen hs
  set u := s.sampled (decide (s.cfg.tSample < h))
  obtain ⟨r', c', hheld⟩ := runs_cwlHold (s := u.moved r _ c) hw hd ⟨rfl, rfl⟩ rfl
  obtain ⟨t, hend, hstim, hcbit, hshreg, hcap, hout, hnext, hdone⟩ := step_endOfWindow
    (s := u.moved r' _ c') hw hd ⟨rfl, rfl⟩ hlt rfl
  have hrun : Runs (s.cfg.tSample + 1 + k + 1) s t :=
    (runs_add _ 1 s t).mpr ⟨_, (runs_add _ k s _).mpr ⟨_, hsampled, hheld⟩, t, hend, rfl⟩
  obtain ⟨hcfg, -⟩ := runs_cfg_resetDone hrun hd
  refine ⟨_, j, t, by omega, by omega, hrun, hstim, ⟨hcbit, hshreg, hcap⟩, hout, ?_⟩
  unfold AwaitsWindow
  rw [hcfg, hcbit]
  obtain hmore | hfull := Nat.lt_or_eq_of_le (Nat.succ_le_of_lt hlt)
  · exact .inl ⟨hmore, hnext hmore⟩
  · obtain ⟨hrelay, -⟩ := hdone hfull
    exact .inr ⟨hfull, hrelay⟩

/-- The bit a capturable window means is the one its pulse width is read as (R71, R225). -/
theorem BitWindow.capturable_bit {c : Config} {w : BitWindow} (h : w.capturable c) :
    decide (c.tSample < w.high) = w.bit ∧ 1 ≤ w.high := by
  obtain ⟨hbit, -⟩ := h
  cases hb : w.bit <;> simp only [hb, if_true, if_false, Bool.false_eq_true] at hbit
  case false =>
    obtain ⟨hpos, hshort⟩ := hbit
    exact ⟨by simpa using hshort, hpos⟩
  case true => exact ⟨by simpa using Nat.lt_of_succ_le hbit, by omega⟩

/-- A capturable bit window, as a whole: the idle cycles left after its pulse are too few for a reset gap (R229), so its bit
is assembled and the block waits for the next window. -/
theorem runs_bitWindow {s : State} {w : BitWindow} {rest : List Pins} (hw : s.cfg.wf = true) (hd : s.resetDone = true)
    (hc : AtCode s .capture 0b00#2) (hlt : s.cbit < capBits s.cfg) (hcap : w.capturable s.cfg)
    (hs : s.stim = w.inputs ++ rest) :
    ∃ t, Runs w.inputs.length s t ∧ t.stim = rest ∧ t.outputs = s.outputs ∧ SameAssembled (s.sampled w.bit) t ∧
      AwaitsWindow t := by
  obtain ⟨hbit, hhigh⟩ := BitWindow.capturable_bit hcap
  obtain ⟨-, hspace, hgap⟩ := hcap
  obtain ⟨n, j, t, hle, hnj, hrun, hstim, hsame, hout, ha⟩ := runs_pulse hw hd hc hlt hhigh hspace hs
  obtain ⟨hcfg, htd⟩ := runs_cfg_resetDone hrun hd
  obtain ⟨a, hhigh⟩ : ∃ a, w.high = a + 1 := ⟨w.high - 1, by omega⟩
  obtain ⟨e, rfl⟩ : ∃ e, n = a + e + 1 := ⟨n - w.high, by omega⟩
  have hlow : w.low = e + j := by omega
  have hline : s.stim = line (true :: (List.replicate a true ++ List.replicate e false)) ++ (level false j ++ rest) := by
    rw [hs, BitWindow.inputs, hhigh, hlow, level_add false]
    simp [level, line, List.replicate_succ, -List.replicate_append_replicate]
  have hidle : t.idleRun ≤ e := by
    rw [idleRun_of_runs_active hline (by simpa using hrun), idleTail_append, idleTail_replicate_active,
      idleTail_replicate_idle]
    omega
  obtain ⟨r, c, hwait⟩ := runs_awaitsWindow_idle (hcfg ▸ hw) htd ha (by rw [hcfg]; omega) hstim
  have hlength : w.inputs.length = a + e + 1 + j := by simp [BitWindow.inputs, level, hhigh, hlow]; omega
  rw [hlength]
  exact ⟨_, (runs_add _ j s _).mpr ⟨t, hrun, hwait⟩, rfl, hout, hbit ▸ ⟨hsame.cbit, hsame.shreg, hsame.cap⟩, ha⟩

/-! ### The windows of a frame -/

/-- Capturable windows, as long as bits of the capture remain: all their bits are assembled in order. -/
theorem runs_bitWindows {s : State} {ws : List BitWindow} {rest : List Pins} (hw : s.cfg.wf = true)
    (hd : s.resetDone = true) (ha : AwaitsWindow s) (hle : s.cbit + ws.length ≤ capBits s.cfg)
    (hcap : ∀ w ∈ ws, w.capturable s.cfg) (hs : s.stim = ws.flatMap BitWindow.inputs ++ rest) :
    ∃ t, Runs (ws.flatMap BitWindow.inputs).length s t ∧ t.stim = rest ∧ t.outputs = s.outputs ∧
      SameAssembled ((ws.map BitWindow.bit).foldl State.sampled s) t ∧ AwaitsWindow t := by
  induction ws generalizing s with
  | nil => exact ⟨s, rfl, hs, rfl, ⟨rfl, rfl, rfl⟩, ha⟩
  | cons w ws ih =>
    rw [List.length_cons] at hle
    rw [List.flatMap_cons, List.append_assoc] at hs
    obtain ⟨hlt, hc⟩ : s.cbit < capBits s.cfg ∧ AtCode s .capture 0b00#2 :=
      ha.resolve_right fun ⟨hfull, _⟩ => by omega
    obtain ⟨u, hrun, hstim, hout, hsame, hau⟩ := runs_bitWindow hw hd hc hlt (hcap w List.mem_cons_self) hs
    obtain ⟨hcfg, hud⟩ := runs_cfg_resetDone hrun hd
    have hcbit : u.cbit = s.cbit + 1 := hsame.cbit
    obtain ⟨t, hrun', hstim', hout', hsame', hat⟩ := ih (hcfg ▸ hw) hud hau (by rw [hcbit, hcfg]; omega)
      (fun v hv => hcfg ▸ hcap v (List.mem_cons_of_mem w hv)) hstim
    rw [List.flatMap_cons, List.length_append]
    exact ⟨t, (runs_add _ _ s t).mpr ⟨u, hrun, hrun'⟩, hstim', hout'.trans hout, (hsame.foldl_sampled _).trans hsame', hat⟩

/-! ### The bytes of a frame -/

@[simp] theorem foldl_sampled_cfg (bs : List Bool) (s : State) : (bs.foldl State.sampled s).cfg = s.cfg := by
  induction bs generalizing s with
  | nil => rfl
  | cons b bs ih => exact ih (s.sampled b)

@[simp] theorem foldl_sampled_cbit (bs : List Bool) (s : State) : (bs.foldl State.sampled s).cbit = s.cbit + bs.length := by
  induction bs generalizing s with
  | nil => rfl
  | cons b bs ih => simp [ih, State.sampled, Nat.add_assoc, Nat.add_comm 1]

@[simp] theorem foldl_sampled_shreg (bs : List Bool) (s : State) :
    (bs.foldl State.sampled s).shreg = bs.foldl assembleBit s.shreg := by
  induction bs generalizing s with
  | nil => rfl
  | cons b bs ih => exact ih (s.sampled b)

/-- Samples that complete no byte store none (R125). -/
theorem foldl_sampled_cap_of_short {bs : List Bool} {s : State} (h : s.cbit % 8 + bs.length < 8) :
    (bs.foldl State.sampled s).cap = s.cap := by
  induction bs generalizing s with
  | nil => rfl
  | cons b bs ih =>
    rw [List.length_cons] at h
    have hbyte : s.byteDone = false := by
      simp only [State.byteDone, beq_eq_false_iff_ne]
      omega
    have hnext : (s.sampled b).cbit % 8 + bs.length < 8 := by
      simp only [State.sampled]
      omega
    rw [List.foldl_cons, ih hnext]
    simp [State.sampled, hbyte]

theorem byteBits_length (v : Byte) : (byteBits v).length = 8 := rfl

/-- The bits of a byte: seven that complete none, and the eighth. -/
theorem byteBits_eq (v : Byte) : ∃ bs b, byteBits v = bs ++ [b] ∧ bs.length = 7 :=
  ⟨(byteBits v).take 7, v.getLsbD 0, rfl, rfl⟩

/-- A byte sampled from a byte's start on writes its complement to the entry it completes, and no other entry (R126, R132). -/
theorem channelGet?_foldl_sampled_byteBits {s : State} {n : Nat} (hw : s.cfg.wf = true) (hstart : s.cbit = 8 * n)
    (hn : n < capBytes s.cfg) (v : Byte) (k : Nat) :
    channelGet? ((byteBits v).foldl State.sampled s).cap k = if k = n then some (~~~ v) else channelGet? s.cap k := by
  have hv := foldl_assembleBit_byteBits s.shreg v
  obtain ⟨bs, b, hbits, hlen⟩ := byteBits_eq v
  rw [hbits, List.foldl_append, List.foldl_cons, List.foldl_nil] at hv ⊢
  have hcbit : (bs.foldl State.sampled s).cbit = 8 * n + 7 := by rw [foldl_sampled_cbit, hstart, hlen]
  have hcap : (bs.foldl State.sampled s).cap = s.cap := foldl_sampled_cap_of_short (by omega)
  have hlt : 8 * n + 7 < capBits s.cfg := by
    simp only [capBits, capBytes] at *
    omega
  have hbyte : (8 * n + 7 + 1) % 8 = 0 := by omega
  have hindex : byteIndex (8 * n + 7) = n := by
    simp only [byteIndex]
    omega
  rw [channelGet?_sampled (by simpa using hw) (by simpa [hcbit, hstart, hlen] using hlt), hcbit, hcap, hindex,
    foldl_sampled_shreg, hv]
  simp [hbyte, dutyValue]

/-- The bytes of a frame, sampled one after the other, fill the entries from the first one on (R132). -/
theorem channelGet?_foldl_sampled_bytes {s : State} {n : Nat} {bytes : List Byte} (hw : s.cfg.wf = true)
    (hstart : s.cbit = 8 * n) (hle : n + bytes.length ≤ capBytes s.cfg) (k : Nat) :
    channelGet? ((bytes.flatMap byteBits).foldl State.sampled s).cap k =
      if n ≤ k ∧ k < n + bytes.length then (bytes[k - n]?).map (fun v => ~~~ v) else channelGet? s.cap k := by
  induction bytes generalizing s n with
  | nil => simp [show ¬ (n ≤ k ∧ k < n) by omega]
  | cons v bytes ih =>
    rw [List.length_cons] at hle
    have hbyte := channelGet?_foldl_sampled_byteBits hw hstart (by omega) v k
    rw [List.flatMap_cons, List.foldl_append,
      ih (n := n + 1) (by simpa using hw) (by rw [foldl_sampled_cbit, hstart, byteBits_length]; rfl)
        (by rw [foldl_sampled_cfg]; omega), hbyte,
      List.length_cons]
    obtain hk | rfl | hk := Nat.lt_trichotomy k n
    · rw [if_neg (by omega), if_neg hk.ne, if_neg (by omega)]
    · simp
    · have hsub : k - n = k - (n + 1) + 1 := by omega
      rw [if_neg hk.ne', hsub, List.getElem?_cons_succ]
      exact if_congr (by omega) rfl rfl

/-- A frame of bytes has eight bits for each. -/
theorem length_flatMap_byteBits (bytes : List Byte) : (bytes.flatMap byteBits).length = 8 * bytes.length := by
  induction bytes with
  | nil => rfl
  | cons v bytes ih => simp [ih, byteBits_length]; omega

end Sys2Proof.Machine

open Sys2Proof Sys2Proof.Machine

/-- Settles O50: the windows assemble the bits of the bytes in order, and with the last of them the capture is complete. -/
theorem frameBytesAreCaptured : Obligations.FrameBytesAreCaptured := by
  intro s ws bytes rest hw hd hc hzero hbytes hbits hcap hs
  have hlength : ws.length = capBits s.cfg := by
    rw [← List.length_map (f := BitWindow.bit), hbits, length_flatMap_byteBits, hbytes, capBytes, capBits]
    omega
  have ha : AwaitsWindow s := .inl ⟨hzero ▸ capBits_pos hw, hc⟩
  obtain ⟨t, hrun, hstim, hout, hsame, hat⟩ := runs_bitWindows hw hd ha (by omega) hcap hs
  obtain ⟨hcfg, -⟩ := runs_cfg_resetDone hrun hd
  have hfull : t.cbit = capBits t.cfg := by
    rw [hsame.cbit, hcfg, foldl_sampled_cbit, List.length_map]
    omega
  obtain ⟨-, hrelay⟩ := hat.resolve_left fun ⟨hlt, _⟩ => hlt.ne hfull
  refine ⟨t, hrun, hrelay, hstim, hout, fun k => ?_⟩
  rw [hsame.cap, hbits, channelGet?_foldl_sampled_bytes (n := 0) hw hzero (by omega) k, hbytes]
  simp

end

section
/-! PROOF. The rows of RELAY, each as its whole next state (42_relay.md R151 to R159). -/

namespace Sys2Proof.Machine

/-- RDONE as one record: its three cases read off the bit index and the budget (R159). -/
theorem relayDone_eq (s : State) :
    s.relayDone =
      { s with
        phase := if s.rbit = 23 ∧ s.budget = 1#8 then .commit else .relay
        sub := 0b00#2
        dout := false
        rbit := if s.rbit = 23 then 0 else s.rbit + 1
        budget := if s.rbit = 23 then s.budget - 1#8 else s.budget } := by
  obtain ⟨hr, h⟩ | ⟨hr, hb, h⟩ | ⟨hr, hb, h⟩ := relayDone_cases s
  · simp [h, hr]
  · simp [h, hr, hb]
  · simp [h, hr, hb]

end Sys2Proof.Machine

open Sys2Proof Sys2Proof.Machine

/-- Settles O21: RH_SHORT writes RDONE, and an idle cycle is counted. -/
theorem rhShortEndsTheBitWindow : Obligations.RhShortEndsTheBitWindow := by
  intro s hr hc hz hdin
  refine ⟨step_eq_exec_of_rowApplies hr ⟨hc, hdin, hz⟩, ?_⟩
  rw [exec_rhShort, State.endCycle, relayDone_eq, idleRunNext_of_idle hdin]

/-- Settles O24: RF_FALL writes RDONE, and an idle cycle is counted. -/
theorem rfFallEndsTheBitWindow : Obligations.RfFallEndsTheBitWindow := by
  intro s hr hc hdin
  refine ⟨step_eq_exec_of_rowApplies hr ⟨hc, hdin⟩, ?_⟩
  rw [exec_rfFall, State.endCycle, relayDone_eq, idleRunNext_of_idle hdin]

/-- Settles O17: RWH_IDLE writes nothing. -/
theorem rwhIdleWaits : Obligations.RwhIdleWaits := by
  intro s hr hc hdin hno
  refine ⟨step_eq_exec_of_rowApplies hr ⟨hc, hdin, fun ⟨hon, _, hle⟩ => hno ⟨hon, hle⟩⟩, ?_⟩
  rw [exec_rwhIdle, State.endCycle, idleRunNext_of_idle hdin]

/-- Settles O18: RWH_END writes the state register alone, and the idle counter is saturated. -/
theorem rwhEndGoesToCommit : Obligations.RwhEndGoesToCommit := by
  intro s hr hc hdin hon hle
  refine ⟨step_eq_exec_of_rowApplies hr ⟨hc, hdin, hon, hdin, hle⟩, ?_⟩
  rw [exec_rwhEnd, State.endCycle, idleRunNext_of_idle hdin, min_eq_right hle]
  rfl

/-- Settles O19: RWH_START drives the output and loads the hold counter, and an active cycle clears the idle counter. -/
theorem rwhStartDrivesTheOutput : Obligations.RwhStartDrivesTheOutput := by
  intro s hr hc hdin
  refine ⟨step_eq_exec_of_rowApplies hr ⟨hc, hdin⟩, ?_⟩
  rw [exec_rwhStart, State.endCycle, idleRunNext_of_active hdin]
  rfl

/-- Settles O20: RH_COUNT applies whatever the line is, and writes the hold counter alone. -/
theorem rhCountCountsTheHoldDown : Obligations.RhCountCountsTheHoldDown :=
  fun s hr hc hne => ⟨step_eq_exec_of_rowApplies hr ⟨hc, hne⟩, exec_rhCount s⟩

/-- Settles O22: RH_LONG writes the state register alone, and an active cycle clears the idle counter. -/
theorem rhLongFollowsTheInput : Obligations.RhLongFollowsTheInput := by
  intro s hr hc hz hdin
  refine ⟨step_eq_exec_of_rowApplies hr ⟨hc, hdin, hz⟩, ?_⟩
  rw [exec_rhLong, State.endCycle, idleRunNext_of_active hdin]
  rfl

/-- Settles O23: RF_HOLD writes nothing, and an active cycle clears the idle counter. -/
theorem rfHoldWaits : Obligations.RfHoldWaits := by
  intro s hr hc hdin
  refine ⟨step_eq_exec_of_rowApplies hr ⟨hc, hdin⟩, ?_⟩
  rw [exec_rfHold, State.endCycle, idleRunNext_of_active hdin]

end

section
/-! PROOF. Which rows move the relay output, and what a relayed bit window takes from the budget (42_relay.md R161, R162;
10_state.md R28 to R30). -/

namespace Sys2Proof.Machine

/-- `dout` is set by RWH_START and cleared by the two rows of RDONE (R30, R162). -/
theorem rowWrites_dout_cases (i : Instr) (s : State) :
    (rowWrites i s).dout = s.dout ∨ (i = .rwhStart ∧ (rowWrites i s).dout = true) ∨
      ((i = .rhShort ∨ i = .rfFall) ∧ (rowWrites i s).dout = false) := by
  cases i <;> simp [rowWrites]

/-- `rbit` and `budget` are written by RELAYINIT, on the way into RELAY, and by the two rows of RDONE (R28, R29). -/
theorem rowWrites_bitsLeft_cases (i : Instr) (s : State) :
    (¬ (i = .rhShort ∨ i = .rfFall) ∧ (rowWrites i s).budget = s.budget ∧
        relayBitsLeft (rowWrites i s) = relayBitsLeft s) ∨
      i = .cwlDone ∨ ((i = .rhShort ∨ i = .rfFall) ∧ rowWrites i s = s.relayDone) := by
  cases i <;> simp [rowWrites, relayBitsLeft]

/-- The end of a cycle touches neither counter the number of remaining bit windows is computed from. -/
theorem relayBitsLeft_endCycle (s w : State) : relayBitsLeft (s.endCycle w) = relayBitsLeft w := rfl

/-- Under the invariant the output falls in exactly the cycles that take a row of RDONE. -/
theorem RowApplies.dout_falls_iff {i : Instr} {s : State} (hs : StateInv s) (hi : RowApplies i s) :
    s.dout = true ∧ (rowWrites i s).dout = false ↔ i = .rhShort ∨ i = .rfFall := by
  constructor
  · rintro ⟨hup, hdown⟩
    obtain h | ⟨-, h⟩ | ⟨hend, -⟩ := rowWrites_dout_cases i s
    · simp [h, hup] at hdown
    · simp [h] at hdown
    · exact hend
  · rintro (rfl | rfl)
    · obtain ⟨⟨hp, hc⟩, -⟩ := hi
      exact ⟨hs.doutIff.mpr ⟨hp, .inl hc⟩, relayDone_dout s⟩
    · obtain ⟨⟨hp, hc⟩, -⟩ := hi
      exact ⟨hs.doutIff.mpr ⟨hp, .inr hc⟩, relayDone_dout s⟩

/-- RDONE takes one bit window from those the budget allows, and goes to COMMIT when none is left (R159, R161). -/
theorem relayDone_bitsLeft {s : State} (hb : 1 ≤ s.budget.toNat) (hr : s.rbit ≤ 23) :
    s.relayDone.budget.toNat ≤ s.budget.toNat ∧ relayBitsLeft s.relayDone + 1 = relayBitsLeft s ∧
      (s.relayDone.phase = .commit ↔ relayBitsLeft s.relayDone = 0) := by
  obtain ⟨hne, h⟩ | ⟨hlast, hne, h⟩ | ⟨hlast, hone, h⟩ := relayDone_cases s <;> simp only [h, relayBitsLeft]
  · exact ⟨le_rfl, by omega, by simp; omega⟩
  · have hne : s.budget.toNat ≠ 1 := fun he => hne (BitVec.eq_of_toNat_eq he)
    have hsub : (s.budget - 1#8).toNat = s.budget.toNat - 1 := by bv_omega
    rw [hsub]
    exact ⟨by omega, by omega, by simp; omega⟩
  · simp [hlast, hone]

end Sys2Proof.Machine

open Sys2Proof Sys2Proof.Machine

/-- Settles O41: RWH_START alone sets the output, RDONE and the reset cycle clear it, and (b) of R35 gives the rest. -/
theorem outputRisesOnlyAtARelayedPulse : Obligations.OutputRisesOnlyAtARelayedPulse := by
  refine ⟨fun s t h hdown hup => ?rises, fun s t h hup hdown => ?falls, fun s hs hout => ?idle⟩
  case rises =>
    obtain ⟨-, ⟨-, rfl⟩ | ⟨hr, -, i, hi, rfl⟩⟩ := step_rowWrites_cases h
    · simp at hup
    rw [endCycle_dout] at hup
    obtain heq | ⟨rfl, -⟩ | ⟨-, hend⟩ := rowWrites_dout_cases i s
    · simp [heq, hdown] at hup
    · exact ⟨hr, hi⟩
    · simp [hend] at hup
  case falls =>
    obtain ⟨-, ⟨hr, -⟩ | ⟨-, -, i, hi, rfl⟩⟩ := step_rowWrites_cases h
    · exact .inl hr
    rw [endCycle_dout] at hdown
    obtain heq | ⟨-, hstart⟩ | ⟨rfl | rfl, -⟩ := rowWrites_dout_cases i s
    · simp [heq, hup] at hdown
    · simp [hstart] at hdown
    · obtain ⟨hc, hdin, hz⟩ := hi
      exact .inr ⟨hdin, .inl ⟨hc, hz⟩⟩
    · obtain ⟨hc, hdin⟩ := hi
      exact .inr ⟨hdin, .inr hc⟩
  case idle =>
    by_contra hup
    obtain ⟨hp, hc⟩ := hs.doutIff.mp (by simpa using hup)
    obtain hn | hn := hout
    · exact hn hp
    · simp [hn] at hc

/-- Settles O54: the output falls in the cycles that take RDONE, and no other row taken in RELAY writes the counters. -/
theorem relayBudgetBoundsTheBitWindows : Obligations.RelayBudgetBoundsTheBitWindows := by
  intro s t hs hr hp hrst h
  obtain ⟨i, hi, rfl⟩ := step_rowWrites_of_not_rst hrst h
  rw [endCycle_dout, endCycle_phase, endCycle_budget, relayBitsLeft_endCycle]
  have hfalls := hi.dout_falls_iff hs
  obtain ⟨hno, hbudget, hleft⟩ | rfl | ⟨hend, hdone⟩ := rowWrites_bitsLeft_cases i s
  · rw [if_neg (mt hfalls.mp hno), hbudget]
    exact ⟨le_rfl, hleft⟩
  · obtain ⟨⟨hp', -⟩, -⟩ := hi
    simp [hp] at hp'
  · rw [if_pos (hfalls.mpr hend), hdone]
    obtain ⟨hb, -⟩ := hs.budgetRange hp
    exact relayDone_bitsLeft hb hr.rbit

end

section
/-! PROOF. The waveform of a relayed pulse (42_relay.md R160): the state in each of its cycles, read off the cycles since its
start. -/

namespace Sys2Proof.Machine

/-- What the bit window that starts in `s` has written `i ≥ 1` cycles later, while its pulse is being put out: the hold counter
counts down and stays at zero, and past the hold interval the output follows the input (R153, R154, R156). -/
def State.relaying (s : State) (i : Nat) : State :=
  { s with
    dout := true
    hcnt := s.cfg.tHold - i
    phase := .relay
    sub := if i ≤ s.cfg.tHold then 0b01#2 else 0b10#2 }

/-- The output stays active for one more cycle inside the hold interval, whatever the line does, and at its end and after it
while the line is active (RH_COUNT, RH_LONG, RF_HOLD). -/
theorem step_relaying {s : State} {i r c : Nat} {d : Bool} {ps : List Pins} (hw : s.cfg.wf = true)
    (hd : s.resetDone = true) (hstay : i < s.cfg.tHold ∨ d = true) :
    ∃ r', step ((s.relaying i).moved r ({ rst := false, din := d } :: ps) c) =
      .next ((s.relaying (i + 1)).moved r' ps (c + 1)) := by
  set v := (s.relaying i).moved r ({ rst := false, din := d } :: ps) c
  have hdin : v.din = d := din_of_stim (s := v) rfl
  refine ⟨v.idleRunNext, ?_⟩
  obtain hlt | heq | hgt := Nat.lt_trichotomy i s.cfg.tHold
  · have hi : RowApplies .rhCount v := ⟨⟨rfl, if_pos hlt.le⟩, (Nat.sub_pos_of_lt hlt).ne'⟩
    refine (step_of_stim (s := v) hw hd rfl hi).trans ?_
    simp [v, rowWrites, State.moved, State.relaying, hlt.le, Nat.succ_le_of_lt hlt, Nat.sub_sub]
  · have hactive : v.din = true := hdin.trans (hstay.resolve_left heq.not_lt)
    have hi : RowApplies .rhLong v := ⟨⟨rfl, if_pos heq.le⟩, hactive, Nat.sub_eq_zero_of_le heq.ge⟩
    refine (step_of_stim (s := v) hw hd rfl hi).trans ?_
    simp [v, rowWrites, State.moved, State.relaying, State.goto, heq]
  · have hactive : v.din = true := hdin.trans (hstay.resolve_left hgt.not_gt)
    have hi : RowApplies .rfHold v := ⟨⟨rfl, if_neg hgt.not_ge⟩, hactive⟩
    refine (step_of_stim (s := v) hw hd rfl hi).trans ?_
    simp [v, rowWrites, State.moved, State.relaying, hgt.not_ge, show ¬ i + 1 ≤ s.cfg.tHold by omega,
      show s.cfg.tHold - i = s.cfg.tHold - (i + 1) by omega]

/-- An idle line at the end of the hold interval or after it ends the bit window (RH_SHORT, RF_FALL). -/
theorem step_relaying_end {s : State} {i r c : Nat} {ps : List Pins} (hw : s.cfg.wf = true) (hd : s.resetDone = true)
    (hle : s.cfg.tHold ≤ i) :
    ∃ r', step ((s.relaying i).moved r ({ rst := false, din := false } :: ps) c) =
      .next ((s.relaying i).relayDone.moved r' ps (c + 1)) := by
  set v := (s.relaying i).moved r ({ rst := false, din := false } :: ps) c
  have hdin : v.din = false := din_of_stim (s := v) rfl
  have hdone : ∀ r', v.relayDone.moved r' ps (c + 1) = (s.relaying i).relayDone.moved r' ps (c + 1) := fun r' => by
    simp [v, State.moved, relayDone_eq]
  refine ⟨v.idleRunNext, (?_ : step v = _).trans (congrArg _ (hdone _))⟩
  obtain heq | hlt := hle.eq_or_lt
  · have hi : RowApplies .rhShort v := ⟨⟨rfl, if_pos heq.ge⟩, hdin, Nat.sub_eq_zero_of_le hle⟩
    exact step_of_stim (s := v) hw hd rfl hi
  · have hi : RowApplies .rfFall v := ⟨⟨rfl, if_neg hlt.not_ge⟩, hdin⟩
    exact step_of_stim (s := v) hw hd rfl hi

/-- The input `i` cycles into a pulse of `h` active cycles and the idle cycles after it. -/
theorem drop_pulse {h m i : Nat} (rest : List Pins) (hi : i < h + m) :
    (level true h ++ level false m ++ rest).drop i =
      { rst := false, din := decide (i < h) } :: (level true h ++ level false m ++ rest).drop (i + 1) := by
  have hlen : i < (level true h ++ level false m ++ rest).length := by simp [level]; omega
  rw [List.drop_eq_getElem_cons hlen]
  congr 1
  by_cases hih : i < h
  · simp [level, hih]
  · simp [level, hih, List.getElem_append, show i - h < m by omega]

/-- From `R_WAIT_HIGH`, up to the cycle in which both the pulse and the hold interval have ended, the pulse is being put out. -/
theorem runs_relaying {s : State} {h m i : Nat} {rest : List Pins} (hw : s.cfg.wf = true) (hd : s.resetDone = true)
    (hc : AtCode s .relay 0b00#2) (hh : 1 ≤ h) (hs : s.stim = level true h ++ level false m ++ rest) (hpos : 1 ≤ i)
    (hstay : i ≤ max s.cfg.tHold h) (hle : i ≤ h + m) :
    ∃ r c, Runs i s ((s.relaying i).moved r (s.stim.drop i) c) := by
  induction i, hpos using Nat.le_induction with
  | base =>
    obtain ⟨-, -, -, hT, -⟩ := (config_wf_iff s.cfg).mp hw
    have hfirst : s.stim = { rst := false, din := true } :: s.stim.drop 1 := by
      simpa [hs, Nat.lt_of_succ_le hh] using drop_pulse (m := m) rest (Nat.add_pos_left hh m)
    have hstep := step_of_stim hw hd hfirst (i := .rwhStart) ⟨hc, din_of_stim hfirst⟩
    refine ⟨s.idleRunNext, s.cycle + 1, _, hstep, ?_⟩
    simp [rowWrites, State.relaying, hcntLoad, hT]
  | succ i hpos ih =>
    obtain ⟨r, c, hrun⟩ := ih (by omega) (by omega)
    rw [hs, drop_pulse rest (by omega), ← hs] at hrun
    obtain ⟨r', hstep⟩ := step_relaying (i := i) (r := r) (c := c) (d := decide (i < h)) (ps := s.stim.drop (i + 1)) hw hd
      (by simp; omega)
    exact ⟨r', c + 1, (runs_add i 1 s _).mpr ⟨_, hrun, _, hstep, rfl⟩⟩

/-- The cycle after the pulse has been put out: the bit window has ended (R159, R160). -/
theorem runs_relayedPulse {s : State} {h m w : Nat} {rest : List Pins} (hw : s.cfg.wf = true) (hd : s.resetDone = true)
    (hc : AtCode s .relay 0b00#2) (hh : 1 ≤ h) (hs : s.stim = level true h ++ level false m ++ rest)
    (hwidth : w = max s.cfg.tHold h) (hm : w + 1 ≤ h + m) :
    ∃ r c, Runs (w + 1) s ((s.relaying w).relayDone.moved r (s.stim.drop (w + 1)) c) := by
  obtain ⟨r, c, hrun⟩ := runs_relaying (i := w) hw hd hc hh hs (by omega) hwidth.le (by omega)
  rw [hs, drop_pulse rest hm, ← hs, decide_eq_false (show ¬ w < h by omega)] at hrun
  obtain ⟨r', hend⟩ := step_relaying_end (i := w) (r := r) (c := c) (ps := s.stim.drop (w + 1)) hw hd (by omega)
  exact ⟨r', c + 1, (runs_add w 1 s _).mpr ⟨_, hrun, _, hend, rfl⟩⟩

/-- RDONE waits for the next bit, or commits after the last bit of the last budgeted pixel (R159). -/
theorem relayDone_atCode (s : State) :
    if s.rbit = 23 ∧ s.budget = 1#8 then AtCode s.relayDone .commit 0b00#2 else AtCode s.relayDone .relay 0b00#2 := by
  rw [relayDone_eq]
  split <;> exact ⟨rfl, rfl⟩

end Sys2Proof.Machine

open Sys2Proof Sys2Proof.Machine

/-- Settles O53: the pulse is put out from the cycle after its start to the end of the hold interval or of the pulse,
whichever is later, and the cycle after that is RDONE. -/
theorem relayedWaveform : Obligations.RelayedWaveform := by
  intro s h m w rest hw hd hc hdout hh hwidth hm hs
  replace hwidth : w = max s.cfg.tHold h := by
    rw [hwidth]
    split <;> omega
  obtain ⟨r, c, hend⟩ := runs_relayedPulse hw hd hc hh hs hwidth hm
  refine ⟨fun i hi => ?_, _, hend, relayDone_atCode (s.relaying w)⟩
  obtain rfl | hpos := Nat.eq_zero_or_pos i
  · exact ⟨s, rfl, by simp [hdout], rfl, rfl⟩
  obtain hiw | rfl := Nat.lt_or_eq_of_le hi
  · obtain ⟨r, c, hrun⟩ := runs_relaying (i := i) hw hd hc hh hs hpos (by omega) (by omega)
    exact ⟨_, hrun, iff_of_true rfl ⟨hpos, Nat.le_of_lt_succ hiw⟩, rfl, rfl⟩
  · exact ⟨_, hend, by simp [State.moved], relayDone_pwm _, relayDone_cap _⟩

end

section
/-! PROOF. From the last bit of a captured frame over a reset gap to the next capture, and what the gap leaves on the compare
registers (43_commit.md R180 to R182). -/

namespace Sys2Proof.Machine

/-! ### The reset gap -/

/-- In `R_WAIT_HIGH` a reset gap is counted to its end, whatever of it has been counted before, and then leads to COMMIT with
the idle counter saturated (R151, R152). -/
theorem runs_relayGap {s : State} {k : Nat} {rest : List Pins} (hw : s.cfg.wf = true) (hd : s.resetDone = true)
    (hon : s.cfg.resync = .anyWait) (hc : AtCode s .relay 0b00#2) (hk : s.cfg.tReset - 1 - s.idleRun = k)
    (hs : s.stim = level false (k + 1) ++ rest) :
    ∃ c, Runs (k + 1) s ((s.goto .commit 0b00#2).moved s.cfg.tReset rest c) := by
  induction k generalizing s with
  | zero =>
    have hs : s.stim = { rst := false, din := false } :: rest := hs
    have hdin := din_of_stim hs
    have hle : s.cfg.tReset ≤ s.idleRun + 1 := by omega
    have hstep := step_of_stim (i := .rwhEnd) hw hd hs ⟨hc, hdin, hon, hdin, hle⟩
    rw [idleRunNext_of_idle hdin, min_eq_right hle] at hstep
    exact ⟨_, _, hstep, rfl⟩
  | succ k ih =>
    have hs : s.stim = { rst := false, din := false } :: (level false (k + 1) ++ rest) := hs
    have hdin := din_of_stim hs
    have hlt : s.idleRun + 1 < s.cfg.tReset := by omega
    have hstep := step_of_stim (i := .rwhIdle) hw hd hs ⟨hc, hdin, fun ⟨_, _, hle⟩ => hlt.not_ge hle⟩
    rw [idleRunNext_of_idle hdin, min_eq_left hlt.le] at hstep
    have hleft : s.cfg.tReset - 1 - (s.idleRun + 1) = k := by omega
    obtain ⟨c, hrun⟩ := ih (s := s.moved (s.idleRun + 1) _ (s.cycle + 1)) hw hd hon hc hleft rfl
    exact ⟨c, _, hstep, hrun⟩

/-- A block that waits for bit 0 of a capture still does so after any number of idle cycles: it stays as it is, or the capture
restarts (R121, R122). -/
theorem runs_captureStart_idle {s : State} {k : Nat} {rest : List Pins} (hw : s.cfg.wf = true) (hd : s.resetDone = true)
    (hc : AtCode s .capture 0b00#2) (hzero : s.cbit = 0) (hs : s.stim = level false k ++ rest) :
    ∃ t, Runs k s t ∧ AtCode t .capture 0b00#2 ∧ t.cbit = 0 ∧ t.outputs = s.outputs := by
  induction k generalizing s with
  | zero => exact ⟨s, rfl, hc, hzero, rfl⟩
  | succ k ih =>
    have hs : s.stim = { rst := false, din := false } :: (level false k ++ rest) := hs
    have hdin := din_of_stim hs
    by_cases hnow : ResyncNow s
    · have hstep := step_of_stim (i := .cwhResync) hw hd hs ⟨hc, hdin, hnow⟩
      obtain ⟨t, hrun, ht⟩ := ih (s := (rowWrites .cwhResync s).moved _ _ _) hw hd ⟨rfl, rfl⟩ rfl rfl
      exact ⟨t, ⟨_, hstep, hrun⟩, ht⟩
    · have hstep := step_of_stim (i := .cwhIdle) hw hd hs ⟨hc, hdin, hnow⟩
      obtain ⟨t, hrun, ht⟩ := ih (s := s.moved s.idleRunNext (level false k ++ rest) (s.cycle + 1)) hw hd hc hzero rfl
      exact ⟨t, ⟨_, hstep, hrun⟩, ht⟩

/-- A frame-reset gap met in `R_WAIT_HIGH`: its end leads to COMMIT, the saturated idle counter out of WAIT_RESET again at
once, and any idle cycles left over keep the block at the start of the capture (R152, R180, R106, R230). -/
theorem runs_resetGap_of_relay {s : State} {n : Nat} {rest : List Pins} (hw : s.cfg.wf = true) (hd : s.resetDone = true)
    (hon : s.cfg.resync = .anyWait) (hc : AtCode s .relay 0b00#2) (hn : s.cfg.tReset + 2 ≤ n)
    (hs : s.stim = level false n ++ rest) :
    ∃ t, Runs n s t ∧ AtCode t .capture 0b00#2 ∧ t.cbit = 0 ∧ t.outputs = { dout := s.dout, pwm := s.cap } := by
  obtain ⟨-, -, -, -, hreset⟩ := (config_wf_iff s.cfg).mp hw
  obtain ⟨k, hk⟩ : ∃ k, s.cfg.tReset - 1 - s.idleRun = k := ⟨_, rfl⟩
  obtain ⟨m, rfl⟩ : ∃ m, n = k + 1 + (m + 1 + 1) := ⟨n - (k + 3), by omega⟩
  rw [level_add, List.append_assoc] at hs
  obtain ⟨c, hgap⟩ := runs_relayGap hw hd hon hc hk hs
  set u := (s.goto .commit 0b00#2).moved s.cfg.tReset _ c
  have hcommit := step_of_stim (s := u) (i := .commit) hw hd rfl ⟨rfl, rfl⟩
  have hidle : u.idleRunNext = s.cfg.tReset := by
    rw [idleRunNext_of_idle (s := u) rfl]
    exact min_eq_right (Nat.le_succ _)
  rw [hidle] at hcommit
  set v := (rowWrites .commit u).moved s.cfg.tReset _ (u.cycle + 1)
  have hexit := step_waitReset_gap (s := v) (d := false) hw hd ⟨rfl, rfl⟩ rfl (Nat.le_succ _)
  obtain ⟨t, hrun, ht, hzero, hout⟩ := runs_captureStart_idle (s := (v.capInit.goto .capture 0b00#2).moved _ _ _)
    hw hd ⟨rfl, rfl⟩ rfl rfl
  exact ⟨t, (runs_add _ _ s t).mpr ⟨u, hgap, v, hcommit, _, hexit, hrun⟩, ht, hzero, hout⟩

/-! ### The frame a profile sends -/

/-- The window of a profile is the one its stimulus statement sends, and means the bit it is sent for (R91). -/
theorem window_inputs (p : Profile) (b : Bool) : (p.window b).inputs = bitWindow p b := by
  cases b <;> rfl

theorem window_bit (p : Profile) (b : Bool) : (p.window b).bit = b := by
  cases b <;> rfl

/-- The bit windows of some bytes in a profile. -/
def Profile.windows (p : Profile) (bytes : List Byte) : List BitWindow := (bytes.flatMap byteBits).map p.window

theorem windows_inputs (p : Profile) (bytes : List Byte) :
    (p.windows bytes).flatMap BitWindow.inputs = bytes.flatMap (byteWindows p) := by
  simp only [Profile.windows, List.flatMap_map, List.flatMap_assoc, window_inputs]
  rfl

theorem windows_bits (p : Profile) (bytes : List Byte) :
    (p.windows bytes).map BitWindow.bit = bytes.flatMap byteBits := by
  simp [Profile.windows, Function.comp_def, window_bit]

theorem windows_capturable {p : Profile} {c : Config} (h0 : (p.window false).capturable c)
    (h1 : (p.window true).capturable c) (bytes : List Byte) : ∀ w ∈ p.windows bytes, w.capturable c := by
  intro w hw
  obtain ⟨b, -, rfl⟩ := List.mem_map.mp hw
  cases b
  case false => exact h0
  case true => exact h1

/-- The file after the capture of these bytes: their complements from entry 0 on, the other entries as before (R132). -/
def capturedFile (c : Channels) (bytes : List Byte) (k : Nat) : Option Byte :=
  if k < bytes.length then (bytes[k]?).map (fun v => ~~~ v) else channelGet? c k

/-- A frame of just the captured bytes and a frame-reset gap leave the captured file on the compare registers, and the block
waiting for bit 0 of the next frame (R182). -/
theorem runs_frame_resetGap {s : State} {p : Profile} {n : Nat} {bytes : List Byte} {rest : List Pins}
    (hw : s.cfg.wf = true) (hd : s.resetDone = true) (hon : s.cfg.resync = .anyWait) (hc : AtCode s .capture 0b00#2)
    (hzero : s.cbit = 0) (h0 : (p.window false).capturable s.cfg) (h1 : (p.window true).capturable s.cfg)
    (hn : s.cfg.tReset + 2 ≤ n) (hbytes : bytes.length = capBytes s.cfg)
    (hs : s.stim = bytes.flatMap (byteWindows p) ++ level false n ++ rest) :
    ∃ t, Runs (bytes.flatMap (byteWindows p) ++ level false n).length s t ∧ AtCode t .capture 0b00#2 ∧ t.cbit = 0 ∧
      t.dout = s.dout ∧ ∀ k, channelGet? t.pwm k = capturedFile s.cap bytes k := by
  rw [List.append_assoc, ← windows_inputs] at hs
  obtain ⟨u, hframe, hcu, hstim, hout, hcap⟩ := frameBytesAreCaptured s (p.windows bytes) bytes _ hw hd hc hzero hbytes
    (windows_bits p bytes) (windows_capturable h0 h1 bytes) hs
  obtain ⟨hcfg, hud⟩ := runs_cfg_resetDone hframe hd
  obtain ⟨t, hgap, hct, htz, htout⟩ := runs_resetGap_of_relay (hcfg ▸ hw) hud (hcfg ▸ hon) hcu (hcfg ▸ hn) hstim
  obtain ⟨hdout, -⟩ := Outputs.mk.inj hout
  obtain ⟨htdout, htpwm⟩ := Outputs.mk.inj htout
  rw [List.length_append, ← windows_inputs, level, List.length_replicate]
  refine ⟨t, (runs_add _ n s t).mpr ⟨u, hframe, hgap⟩, hct, htz, htdout.trans hdout, fun k => ?_⟩
  rw [htpwm, hcap, ← hbytes, capturedFile]

/-- Two pixels fill the file. -/
theorem eq_of_capturedFile_two {c d : Channels} {a0 a1 a2 b0 b1 b2 : Byte}
    (h : ∀ k, channelGet? d k = capturedFile c [a0, a1, a2, b0, b1, b2] k) :
    d = ⟨~~~ a0, ~~~ a1, ~~~ a2, ~~~ b0, ~~~ b1, ~~~ b2⟩ := by
  refine channels_ext fun k hk => (h k).trans ?_
  interval_cases k <;> rfl

/-- One pixel leaves the second one as it is. -/
theorem eq_of_capturedFile_one {c d : Channels} {a0 a1 a2 : Byte}
    (h : ∀ k, channelGet? d k = capturedFile c [a0, a1, a2] k) :
    d = ⟨~~~ a0, ~~~ a1, ~~~ a2, c.b3, c.b4, c.b5⟩ := by
  refine channels_ext fun k hk => (h k).trans ?_
  interval_cases k <;> rfl

end Sys2Proof.Machine

open Sys2Proof Sys2Proof.Machine

/-- Settles O25: the row of COMMIT has no guard, and it writes the file as a whole. -/
theorem commitCopiesTheCapturedPixels : Obligations.CommitCopiesTheCapturedPixels :=
  fun s hr hc => ⟨step_eq_exec_of_rowApplies hr hc, exec_commit s⟩

/-- Settles O51: the statements expand to the frame's bytes and the gap, and with `PIXELS = 1` the entries that the frame does
not reach hold the sentinel. -/
theorem capturedFrameReachesTheCompareRegisters : Obligations.CapturedFrameReachesTheCompareRegisters := by
  intro s p n a0 a1 a2 b0 b1 b2 rest hw hd hon hc hzero h0 h1 hn
  refine ⟨fun hpix hs => ?two, fun hpix hheld hs => ?one⟩
  case two =>
    have hframe : expand p (.seq (.pix a0 a1 a2) (.seq (.pix b0 b1 b2) (.rst n))) =
        [a0, a1, a2, b0, b1, b2].flatMap (byteWindows p) ++ level false n := by
      simp [expand]
    rw [hframe] at hs ⊢
    obtain ⟨t, hrun, hct, htz, hdout, hpwm⟩ :=
      runs_frame_resetGap hw hd hon hc hzero h0 h1 hn (by simp [capBytes, hpix]) hs
    exact ⟨t, hrun, hct, htz, hdout, eq_of_capturedFile_two hpwm⟩
  case one =>
    have hframe : expand p (.seq (.pix a0 a1 a2) (.rst n)) =
        [a0, a1, a2].flatMap (byteWindows p) ++ level false n := by
      simp [expand]
    rw [hframe] at hs ⊢
    obtain ⟨t, hrun, hct, htz, hdout, hpwm⟩ :=
      runs_frame_resetGap hw hd hon hc hzero h0 h1 hn (by simp [capBytes, hpix]) hs
    obtain ⟨hp, -⟩ := hc
    obtain ⟨h3, h4, h5⟩ := hheld hpix (by simp [hp])
    exact ⟨t, hrun, hct, htz, hdout, by rw [eq_of_capturedFile_one hpwm, h3, h4, h5]⟩

end

section
/-! PROOF. The reset cycle, the values after it, and the block before it (70_reset_and_hazards.md R220 to R224). -/

open Sys2Proof Sys2Proof.Machine

/-- Settles O26: past a legal configuration `rst` is looked at first, and the reset cycle names these fields. -/
theorem resetCycleWritesTheResetState : Obligations.ResetCycleWritesTheResetState :=
  fun _ hw hr => step_of_rst hw hr

/-- Settles O27: of the four refusals this is the one left when the configuration is legal. -/
theorem unresetBlockIsRefused : Obligations.UnresetBlockIsRefused :=
  fun s hw hd hr => (step_refused_iff s .notReset).mpr (.inr ⟨(configRefusal_eq_none_iff _).mpr hw, hr, hd, rfl⟩)

/-- Settles O29: `State.resetWith` writes these values whatever the configuration. -/
theorem resetStateIsAsTheSpecSays : Obligations.ResetStateIsAsTheSpecSays :=
  fun _ => ⟨⟨rfl, rfl⟩, rfl, rfl, rfl⟩

/-- Settles O46: the reset cycle leaves WAIT_RESET with a cleared idle counter, and a run there that is short of a reset gap
moves nothing but the idle count. -/
theorem nothingIsCapturedBeforeAResetGap : Obligations.NothingIsCapturedBeforeAResetGap := by
  intro s d ds rest hw hs hshort
  have hreset : step s = .next s.resetCycle := step_of_rst hw (rst_of_stim hs)
  have hline : s.resetCycle.stim = line ds ++ rest := by simp [hs]
  obtain ⟨c, hwait⟩ := runs_waitReset_short (s := s.resetCycle) hw rfl ⟨rfl, rfl⟩ hline fun n _ hn => hshort n hn
  exact ⟨_, ⟨_, hreset, hwait⟩, ⟨rfl, rfl⟩, rfl, rfl⟩

end

section
/-! PROOF. A stuck line: a row that writes nothing applies in every cycle (70_reset_and_hazards.md R235). -/

namespace Sys2Proof.Machine

/-- A row that writes nothing and applies whatever the idle count is holds the state while the line keeps its level. -/
theorem runs_of_rowHolds {s : State} {i : Instr} {d : Bool} {n : Nat} {rest : List Pins} (hw : s.cfg.wf = true)
    (hd : s.resetDone = true) (hwrites : ∀ u, rowWrites i u = u)
    (happlies : ∀ idle ps cycle, RowApplies i (s.moved idle ({ rst := false, din := d } :: ps) cycle))
    (hs : s.stim = level d n ++ rest) : ∃ idle cycle, Runs n s (s.moved idle rest cycle) := by
  induction n generalizing s with
  | zero => exact ⟨s.idleRun, s.cycle, (moved_self hs).symm⟩
  | succ n ih =>
    have hs : s.stim = { rst := false, din := d } :: (level d n ++ rest) := hs
    have hi : RowApplies i s := moved_self hs ▸ happlies s.idleRun _ s.cycle
    have hstep := step_of_stim hw hd hs hi
    rw [hwrites] at hstep
    obtain ⟨idle, cycle, hrun⟩ := ih (s := s.moved s.idleRunNext _ (s.cycle + 1)) hw hd happlies rfl
    exact ⟨idle, cycle, _, hstep, hrun⟩

end Sys2Proof.Machine

open Sys2Proof Sys2Proof.Machine

/-- Settles O56: WR_ACTIVE, CWL_HOLD and RF_HOLD hold the block on an active line; on an idle one CWH_IDLE and RWH_IDLE do,
since without `ANY_WAIT` no resync row applies. -/
theorem stuckLineHoldsTheState : Obligations.StuckLineHoldsTheState := by
  intro s n rest hw hd
  refine ⟨fun hs hc => ?active, fun hs hoff hc => ?idle⟩
  case active =>
    have hheld : ∃ idle cycle, Runs n s (s.moved idle rest cycle) := by
      obtain hc | hc | hc := hc
      · exact runs_of_rowHolds (i := .wrActive) hw hd (fun _ => rfl) (fun _ _ _ => ⟨hc, rfl⟩) hs
      · exact runs_of_rowHolds (i := .cwlHold) hw hd (fun _ => rfl) (fun _ _ _ => ⟨hc, rfl⟩) hs
      · exact runs_of_rowHolds (i := .rfHold) hw hd (fun _ => rfl) (fun _ _ _ => ⟨hc, rfl⟩) hs
    obtain ⟨_, _, hrun⟩ := hheld
    exact ⟨_, hrun, ⟨rfl, rfl⟩, rfl⟩
  case idle =>
    have hno : s.cfg.resync ≠ .anyWait := by simp [hoff]
    have hheld : ∃ idle cycle, Runs n s (s.moved idle rest cycle) := by
      obtain hc | hc := hc
      · exact runs_of_rowHolds (i := .cwhIdle) hw hd (fun _ => rfl) (fun _ _ _ => ⟨hc, rfl, fun ⟨hon, _⟩ => hno hon⟩) hs
      · exact runs_of_rowHolds (i := .rwhIdle) hw hd (fun _ => rfl) (fun _ _ _ => ⟨hc, rfl, fun ⟨hon, _⟩ => hno hon⟩) hs
    obtain ⟨_, _, hrun⟩ := hheld
    exact ⟨_, hrun, ⟨rfl, rfl⟩, rfl, rfl⟩

end

section
/-! PROOF. A reset gap met in any state: on an idle line the cycles to go to a new capture, read off the state, fall in each
cycle, and the gap is as long as they can be (70_reset_and_hazards.md R230, its last point). -/

namespace Sys2Proof.Machine

/-- The block waits for bit 0 of a capture, with nothing sampled since CAPINIT (R120). -/
abbrev CaptureStarted (s : State) : Prop := AtCode s .capture 0b00#2 ∧ s.cbit = 0 ∧ s.shreg = 0x00#8

/-- The cycles a commit takes on the way from a state to a new capture, at most: RWH_END and COMMIT (R152, R180). A captured
bit window may be the capture's last one, so it counts both. -/
def State.commitCycles (s : State) : Nat :=
  match s.phase with
  | .waitReset => 0
  | .capture => if s.sub = 0b00#2 then 0 else 2
  | .relay => 2
  | .commit => 1

/-- A bound on the idle cycles from a state to a new capture: those that end the bit window or those that complete the reset
gap, whichever are more, and those of a commit. -/
def State.cyclesToCapture (s : State) : Nat :=
  max (s.cyclesToWait + 1) (s.cfg.tReset - s.idleRun) + s.commitCycles

theorem commitCycles_le (s : State) : s.commitCycles ≤ 2 := by
  cases hp : s.phase
  case capture =>
    simp only [State.commitCycles, hp]
    split_ifs <;> omega
  all_goals simp [State.commitCycles, hp]

/-- In a bit window the commit is still to come. -/
theorem commitCycles_of_cyclesToWait {s : State} (h : 0 < s.cyclesToWait) : s.commitCycles = 2 := by
  cases hp : s.phase
  case capture =>
    have hc : s.sub ≠ 0b00#2 := by
      intro hc
      simp [State.cyclesToWait, hp, hc] at h
    simp [State.commitCycles, hp, hc]
  case relay => simp [State.commitCycles, hp]
  case waitReset | commit => simp [State.cyclesToWait, hp] at h

/-- Within the ranges of the counters, `T_RESET + 2` idle cycles are enough, as the longest bit window is shorter than a reset
gap (R11). -/
theorem cyclesToCapture_le {s : State} (hw : s.cfg.wf = true) (hr : InRange s) : s.cyclesToCapture ≤ s.cfg.tReset + 2 := by
  obtain ⟨-, -, -, -, hreset⟩ := (config_wf_iff s.cfg).mp hw
  have hwait := cyclesToWait_le hr
  have hcommit := commitCycles_le s
  unfold State.cyclesToCapture
  omega

/-- An idle cycle brings the capture nearer when its row does a cycle of the commit, or keeps the commit where it is and does
a cycle of the bit window or of a reset gap that it does not complete. -/
theorem cyclesToCapture_endCycle_lt {s w : State} (hidle : s.din = false) (hcfg : w.cfg = s.cfg)
    (hwait : w.cyclesToWait ≤ s.cyclesToWait - 1)
    (h : w.commitCycles < s.commitCycles ∨
      w.commitCycles ≤ s.commitCycles ∧ (0 < s.cyclesToWait ∨ s.idleRun + 1 < s.cfg.tReset)) :
    (s.endCycle w).cyclesToCapture < s.cyclesToCapture := by
  have hcycles : (s.endCycle w).cyclesToCapture =
      max (w.cyclesToWait + 1) (s.cfg.tReset - min (s.idleRun + 1) s.cfg.tReset) + w.commitCycles := by
    rw [← idleRunNext_of_idle hidle, ← hcfg]
    rfl
  rw [hcycles, State.cyclesToCapture]
  omega

/-- In an idle cycle the row that applies starts a capture or brings it nearer. -/
theorem endCycle_rowWrites_towardsCapture {i : Instr} {s : State} (hon : s.cfg.resync = .anyWait) (hi : RowApplies i s)
    (hidle : s.din = false) :
    CaptureStarted (s.endCycle (rowWrites i s)) ∨ (s.endCycle (rowWrites i s)).cyclesToCapture < s.cyclesToCapture := by
  by_cases hwindow : 0 < s.cyclesToWait
  case pos =>
    obtain ⟨hless, -⟩ := rowWrites_cyclesToWait hi hidle hwindow
    have hcommit : (rowWrites i s).commitCycles ≤ s.commitCycles := by
      rw [commitCycles_of_cyclesToWait hwindow]
      exact commitCycles_le _
    exact .inr (cyclesToCapture_endCycle_lt hidle (rowWrites_cfg i s) (by omega) (.inr ⟨hcommit, .inl hwindow⟩))
  case neg =>
    cases i <;> simp only [RowApplies, AtCode] at hi
    case wrExit | cwhResync => exact .inl ⟨⟨rfl, rfl⟩, rfl, rfl⟩
    case wrActive | cwhStart | cwlHold | rwhStart | rhLong | rfHold => simp [hidle] at hi
    case cdCount | cdSample | cwlNext | cwlDone | rhCount | rhShort | rfFall =>
      obtain ⟨⟨hp, hc⟩, -⟩ := hi
      simp [State.cyclesToWait, hp, hc] at hwindow
    case wrCount | cwhIdle | rwhIdle =>
      obtain ⟨-, -, hno⟩ := hi
      have hshort : s.idleRun + 1 < s.cfg.tReset := by simpa [hon, hidle] using hno
      have hwait : s.cyclesToWait ≤ s.cyclesToWait - 1 := by omega
      exact .inr (cyclesToCapture_endCycle_lt hidle rfl hwait (.inr ⟨le_rfl, .inr hshort⟩))
    case rwhEnd | commit =>
      refine .inr (cyclesToCapture_endCycle_lt hidle rfl ?_ (.inl ?_))
      · exact Nat.zero_le _
      · simp [rowWrites, State.commitCycles, hi]

/-- An idle cycle leaves a capture that has started as it is, or starts it again (R121, R122). -/
theorem endCycle_rowWrites_captureStarted {i : Instr} {s : State} (hi : RowApplies i s) (hidle : s.din = false)
    (h : CaptureStarted s) : CaptureStarted (s.endCycle (rowWrites i s)) := by
  obtain ⟨⟨hp, hc⟩, hcbit, hshreg⟩ := h
  cases i <;> simp only [RowApplies, AtCode] at hi
  case cwhIdle => exact ⟨⟨hp, hc⟩, hcbit, hshreg⟩
  case cwhResync => exact ⟨⟨rfl, rfl⟩, rfl, rfl⟩
  all_goals simp [hp, hc, hidle] at hi

/-- A line that stays idle for the cycles to go, or longer, brings the block to the start of a capture. -/
theorem runs_captureStarted {s : State} {n : Nat} {rest : List Pins} (hs : StateInv s) (hd : s.resetDone = true)
    (hon : s.cfg.resync = .anyWait) (hn : CaptureStarted s ∨ s.cyclesToCapture ≤ n)
    (hstim : s.stim = level false n ++ rest) : ∃ t, Runs n s t ∧ StateInv t ∧ CaptureStarted t := by
  induction n generalizing s with
  | zero =>
    have hpos : 0 < s.cyclesToCapture := by
      unfold State.cyclesToCapture
      omega
    exact ⟨s, rfl, hs, hn.resolve_right (by omega)⟩
  | succ n ih =>
    have hstim : s.stim = { rst := false, din := false } :: (level false n ++ rest) := hstim
    have hidle := din_of_stim hstim
    obtain ⟨u, hstep, hud⟩ := exists_step_of_stateInv hs hd
    obtain ⟨i, hi, rfl⟩ := step_rowWrites_of_not_rst (rst_of_stim hstim) hstep
    have hnext : CaptureStarted (s.endCycle (rowWrites i s)) ∨ (s.endCycle (rowWrites i s)).cyclesToCapture ≤ n := by
      obtain hstart | hle := hn
      · exact .inl (endCycle_rowWrites_captureStarted hi hidle hstart)
      · exact (endCycle_rowWrites_towardsCapture hon hi hidle).imp_right fun hlt => by omega
    obtain ⟨t, hrun, ht⟩ := ih (step_stateInv hs hstep) hud (by simpa using hon) hnext (by simp [hstim])
    exact ⟨t, ⟨_, hstep, hrun⟩, ht⟩

end Sys2Proof.Machine

open Sys2Proof Sys2Proof.Machine

/-- Settles O55: the gap is at least as long as the cycles to go from any state, and a capture that has started outlasts the
idle cycles left over. -/
theorem resetGapStartsANewCaptureFromAnyState : Obligations.ResetGapStartsANewCaptureFromAnyState := by
  intro s p n rest hs hr hd hon hn hstim
  have hle : s.cyclesToCapture ≤ n := (cyclesToCapture_le hs.config hr).trans hn
  obtain ⟨t, hrun, hinv, hc, hcbit, hshreg⟩ := runs_captureStarted hs hd hon (.inr hle) hstim
  have hdout : t.dout = false := dout_of_phaseInv (phaseInv_of_stateInv hinv) (by simp [hc])
  exact ⟨t, hrun, hc, hcbit, hshreg, hdout⟩

end
